-- ==== Sys2Proof/Word.lean ====
section
/-! DEFINITION. The bit widths of Chip8Emu CORE: bytes, 16-bit words, register numbers (spec R6, R8, R21, R92). -/

namespace Sys2Proof

/-- An 8-bit value: a general register, a timer, a memory byte, an immediate NN (R21, R26, R28, R92). -/
abbrev Byte := BitVec 8

/-- A 16-bit value: I, PC, a stack entry, an instruction word, a fault register (R23, R25, R29, R36). -/
abbrev Word := BitVec 16

/-- A register number, the 4-bit X or Y field of an instruction word (R92). -/
abbrev RegNum := BitVec 4

end Sys2Proof
end

