-- ==== Sys2Proof/Syntax.lean ====
section
/-! DEFINITION. The 34 instructions of the opcode map (spec R103), one constructor per row of
spec/opcode_table.json. Operand fields have exactly the width the word gives them (R92), so every term
is an instruction. Bits a row ignores (R101) are no part of the instruction. -/

namespace Sys2Proof

/-- One constructor per row of spec/opcode_table.json, in the table's order (R103). `x`, `y` are register
numbers, `nn` an immediate byte, `nnn` a 12-bit address, `n` a sprite height (R92, R93). -/
inductive Instr where
  /-- CLS, `00E0` (R140). -/
  | cls
  /-- RET, `00EE` (R141). -/
  | ret
  /-- JP addr, `1NNN` (R142). -/
  | jp (nnn : BitVec 12)
  /-- CALL addr, `2NNN` (R143). -/
  | call (nnn : BitVec 12)
  /-- SE Vx,byte, `3XNN` (R144). -/
  | seByte (x : RegNum) (nn : Byte)
  /-- SNE Vx,byte, `4XNN` (R145). -/
  | sneByte (x : RegNum) (nn : Byte)
  /-- SE Vx,Vy, `5XY0`, low nibble ignored (R146, R99). -/
  | seReg (x y : RegNum)
  /-- LD Vx,byte, `6XNN` (R161). -/
  | ldByte (x : RegNum) (nn : Byte)
  /-- ADD Vx,byte, `7XNN` (R162). -/
  | addByte (x : RegNum) (nn : Byte)
  /-- LD Vx,Vy, `8XY0` (R163). -/
  | ldReg (x y : RegNum)
  /-- OR Vx,Vy, `8XY1` (R164). -/
  | orReg (x y : RegNum)
  /-- AND Vx,Vy, `8XY2` (R165). -/
  | andReg (x y : RegNum)
  /-- XOR Vx,Vy, `8XY3` (R166). -/
  | xorReg (x y : RegNum)
  /-- ADD Vx,Vy, `8XY4` (R167). -/
  | addReg (x y : RegNum)
  /-- SUB Vx,Vy, `8XY5` (R168). -/
  | sub (x y : RegNum)
  /-- SHR Vx, `8XY6`, the Y field ignored (R169, R101). -/
  | shr (x : RegNum)
  /-- SUBN Vx,Vy, `8XY7` (R170). -/
  | subn (x y : RegNum)
  /-- SHL Vx, `8XYE`, the Y field ignored (R171, R101). -/
  | shl (x : RegNum)
  /-- SNE Vx,Vy, `9XY0`, low nibble ignored (R147, R99). -/
  | sneReg (x y : RegNum)
  /-- LD I,addr, `ANNN` (R220). -/
  | ldI (nnn : BitVec 12)
  /-- JP V0,addr, `BNNN` (R148). -/
  | jpV0 (nnn : BitVec 12)
  /-- RND Vx,byte, `CXNN` (R172). -/
  | rnd (x : RegNum) (nn : Byte)
  /-- DRW Vx,Vy,N, `DXYN` (R190). -/
  | drw (x y : RegNum) (n : BitVec 4)
  /-- SKP Vx, `EX9E` (R205). -/
  | skp (x : RegNum)
  /-- SKNP Vx, `EXA1` (R206). -/
  | sknp (x : RegNum)
  /-- LD Vx,DT, `FX07` (R200). -/
  | ldVxDt (x : RegNum)
  /-- LD Vx,K, `FX0A` (R207). -/
  | ldVxK (x : RegNum)
  /-- LD DT,Vx, `FX15` (R201). -/
  | ldDtVx (x : RegNum)
  /-- LD ST,Vx, `FX18` (R202). -/
  | ldStVx (x : RegNum)
  /-- ADD I,Vx, `FX1E` (R203). -/
  | addIVx (x : RegNum)
  /-- LD F,Vx, `FX29` (R204). -/
  | ldFVx (x : RegNum)
  /-- LD B,Vx, `FX33` (R221). -/
  | ldBVx (x : RegNum)
  /-- LD [I],Vx, `FX55` (R222). -/
  | ldMemVx (x : RegNum)
  /-- LD Vx,[I], `FX65` (R223). -/
  | ldVxMem (x : RegNum)
  deriving DecidableEq, Repr

end Sys2Proof
end

