-- ==== Sys2Proof/Decode.lean ====
section
/-! DEFINITION. Decoding an instruction word by family and second level (spec R92, R94 to R100, R104), the
opcode map as a table of masks (R103), and the encoder. -/

namespace Sys2Proof

/-- What the decoder answers for a 16-bit word: one of the 34 instructions or the verdict unrecognized (R104). -/
inductive Decoded where
  | recognized (i : Instr)
  | unrecognized
  deriving DecidableEq, Repr

/-- Why a list of bytes gives no instruction: fewer than two bytes, or an unrecognized word (R90, R100). -/
inductive Rejection where
  | truncated
  | unrecognizedWord (w : Word)
  deriving DecidableEq, Repr

/-- The leading nibble `w[15:12]` (R92). -/
def familyField (w : Word) : BitVec 4 := w.extractLsb' 12 4
/-- X, `w[11:8]` (R92). -/
def xField (w : Word) : RegNum := w.extractLsb' 8 4
/-- Y, `w[7:4]` (R92). -/
def yField (w : Word) : RegNum := w.extractLsb' 4 4
/-- N, `w[3:0]` (R92). -/
def nField (w : Word) : BitVec 4 := w.extractLsb' 0 4
/-- NN, `w[7:0]` (R92). -/
def nnField (w : Word) : Byte := w.extractLsb' 0 8
/-- NNN, `w[11:0]` (R92). -/
def nnnField (w : Word) : BitVec 12 := w.extractLsb' 0 12

/-- Second level of family 0, on the whole word (R95). -/
def decodeFamily0 (w : Word) : Decoded :=
  if w = 0x00E0#16 then .recognized .cls
  else if w = 0x00EE#16 then .recognized .ret
  else .unrecognized

/-- Second level of family 8, on the low nibble (R96). -/
def decodeFamily8 (w : Word) : Decoded :=
  if nField w = 0x0#4 then .recognized (.ldReg (xField w) (yField w))
  else if nField w = 0x1#4 then .recognized (.orReg (xField w) (yField w))
  else if nField w = 0x2#4 then .recognized (.andReg (xField w) (yField w))
  else if nField w = 0x3#4 then .recognized (.xorReg (xField w) (yField w))
  else if nField w = 0x4#4 then .recognized (.addReg (xField w) (yField w))
  else if nField w = 0x5#4 then .recognized (.sub (xField w) (yField w))
  else if nField w = 0x6#4 then .recognized (.shr (xField w))
  else if nField w = 0x7#4 then .recognized (.subn (xField w) (yField w))
  else if nField w = 0xE#4 then .recognized (.shl (xField w))
  else .unrecognized

/-- Second level of family E, on the low byte (R97). -/
def decodeFamilyE (w : Word) : Decoded :=
  if nnField w = 0x9E#8 then .recognized (.skp (xField w))
  else if nnField w = 0xA1#8 then .recognized (.sknp (xField w))
  else .unrecognized

/-- Second level of family F, on the low byte (R98). -/
def decodeFamilyF (w : Word) : Decoded :=
  if nnField w = 0x07#8 then .recognized (.ldVxDt (xField w))
  else if nnField w = 0x0A#8 then .recognized (.ldVxK (xField w))
  else if nnField w = 0x15#8 then .recognized (.ldDtVx (xField w))
  else if nnField w = 0x18#8 then .recognized (.ldStVx (xField w))
  else if nnField w = 0x1E#8 then .recognized (.addIVx (xField w))
  else if nnField w = 0x29#8 then .recognized (.ldFVx (xField w))
  else if nnField w = 0x33#8 then .recognized (.ldBVx (xField w))
  else if nnField w = 0x55#8 then .recognized (.ldMemVx (xField w))
  else if nnField w = 0x65#8 then .recognized (.ldVxMem (xField w))
  else .unrecognized

/-- The decoder/dispatcher: total, reads nothing but the word (R94, R99, R104, R123). Families 5 and 9 never look
at the low nibble (R99). -/
def decodeWord (w : Word) : Decoded :=
  if familyField w = 0x0#4 then decodeFamily0 w
  else if familyField w = 0x1#4 then .recognized (.jp (nnnField w))
  else if familyField w = 0x2#4 then .recognized (.call (nnnField w))
  else if familyField w = 0x3#4 then .recognized (.seByte (xField w) (nnField w))
  else if familyField w = 0x4#4 then .recognized (.sneByte (xField w) (nnField w))
  else if familyField w = 0x5#4 then .recognized (.seReg (xField w) (yField w))
  else if familyField w = 0x6#4 then .recognized (.ldByte (xField w) (nnField w))
  else if familyField w = 0x7#4 then .recognized (.addByte (xField w) (nnField w))
  else if familyField w = 0x8#4 then decodeFamily8 w
  else if familyField w = 0x9#4 then .recognized (.sneReg (xField w) (yField w))
  else if familyField w = 0xA#4 then .recognized (.ldI (nnnField w))
  else if familyField w = 0xB#4 then .recognized (.jpV0 (nnnField w))
  else if familyField w = 0xC#4 then .recognized (.rnd (xField w) (nnField w))
  else if familyField w = 0xD#4 then .recognized (.drw (xField w) (yField w) (nField w))
  else if familyField w = 0xE#4 then decodeFamilyE w
  else decodeFamilyF w

/-- The word of two consecutive bytes: the byte at the lower address is the high byte (R61). -/
def wordOfBytes (hi lo : Byte) : Word := hi ++ lo

/-- The decoder on bytes: the first instruction of the list and the bytes after it, or the reason there is none
(R61, R90, R100). -/
def decodeBytes : List Byte → Except Rejection (Instr × List Byte)
  | hi :: lo :: rest =>
    match decodeWord (wordOfBytes hi lo) with
    | .recognized i => .ok (i, rest)
    | .unrecognized => .error (.unrecognizedWord (wordOfBytes hi lo))
  | _ => .error .truncated

/-- The two bytes of a word in the order the hardware stores them, high byte first (R61, R90). -/
def bytesOfWord (w : Word) : List Byte := [w.extractLsb' 8 8, w.extractLsb' 0 8]

/-- The instruction of a word of spec/opcode_table.json given as a number of `nbits` bits, laid out as the hardware
stores it and read by `decodeBytes`. -/
def decodeTableWord (nbits w : Nat) : Option Instr :=
  match decodeBytes (bytesOfWord (BitVec.ofNat 16 (w % 2 ^ nbits))) with
  | .ok (i, _) => some i
  | .error _ => none

/-- A word of format NNN: a family and a 12-bit address (R91). -/
def wordNnn (f : BitVec 4) (nnn : BitVec 12) : Word := f ++ nnn

/-- A word of format XNN or XS: a family, X and a byte (R91). -/
def wordXnn (f : BitVec 4) (x : RegNum) (nn : Byte) : Word := f ++ x ++ nn

/-- A word of format XY, XYS or XYN: four nibbles, most significant first (R91). -/
def nibbles (f : BitVec 4) (x y : RegNum) (n : BitVec 4) : Word := f ++ x ++ y ++ n

/-- The word of an instruction (R91, R103). The low nibble of families 5 and 9 is 0 ("An assembler emits the low
nibble as 0", R99); the ignored Y field of SHR and SHL is 0 too (assumption 13, DESIGN CHOICE, safe). -/
def encode : Instr → Word
  | .cls => 0x00E0#16
  | .ret => 0x00EE#16
  | .jp nnn => wordNnn 0x1#4 nnn
  | .call nnn => wordNnn 0x2#4 nnn
  | .seByte x nn => wordXnn 0x3#4 x nn
  | .sneByte x nn => wordXnn 0x4#4 x nn
  | .seReg x y => nibbles 0x5#4 x y 0x0#4
  | .ldByte x nn => wordXnn 0x6#4 x nn
  | .addByte x nn => wordXnn 0x7#4 x nn
  | .ldReg x y => nibbles 0x8#4 x y 0x0#4
  | .orReg x y => nibbles 0x8#4 x y 0x1#4
  | .andReg x y => nibbles 0x8#4 x y 0x2#4
  | .xorReg x y => nibbles 0x8#4 x y 0x3#4
  | .addReg x y => nibbles 0x8#4 x y 0x4#4
  | .sub x y => nibbles 0x8#4 x y 0x5#4
  | .shr x => nibbles 0x8#4 x 0x0#4 0x6#4
  | .subn x y => nibbles 0x8#4 x y 0x7#4
  | .shl x => nibbles 0x8#4 x 0x0#4 0xE#4
  | .sneReg x y => nibbles 0x9#4 x y 0x0#4
  | .ldI nnn => wordNnn 0xA#4 nnn
  | .jpV0 nnn => wordNnn 0xB#4 nnn
  | .rnd x nn => wordXnn 0xC#4 x nn
  | .drw x y n => nibbles 0xD#4 x y n
  | .skp x => wordXnn 0xE#4 x 0x9E#8
  | .sknp x => wordXnn 0xE#4 x 0xA1#8
  | .ldVxDt x => wordXnn 0xF#4 x 0x07#8
  | .ldVxK x => wordXnn 0xF#4 x 0x0A#8
  | .ldDtVx x => wordXnn 0xF#4 x 0x15#8
  | .ldStVx x => wordXnn 0xF#4 x 0x18#8
  | .addIVx x => wordXnn 0xF#4 x 0x1E#8
  | .ldFVx x => wordXnn 0xF#4 x 0x29#8
  | .ldBVx x => wordXnn 0xF#4 x 0x33#8
  | .ldMemVx x => wordXnn 0xF#4 x 0x55#8
  | .ldVxMem x => wordXnn 0xF#4 x 0x65#8

/-- The mask and match of an instruction's row of the opcode map (R103). -/
def opcodeRow : Instr → Word × Word
  | .cls => (0xFFFF#16, 0x00E0#16)
  | .ret => (0xFFFF#16, 0x00EE#16)
  | .jp _ => (0xF000#16, 0x1000#16)
  | .call _ => (0xF000#16, 0x2000#16)
  | .seByte _ _ => (0xF000#16, 0x3000#16)
  | .sneByte _ _ => (0xF000#16, 0x4000#16)
  | .seReg _ _ => (0xF000#16, 0x5000#16)
  | .ldByte _ _ => (0xF000#16, 0x6000#16)
  | .addByte _ _ => (0xF000#16, 0x7000#16)
  | .ldReg _ _ => (0xF00F#16, 0x8000#16)
  | .orReg _ _ => (0xF00F#16, 0x8001#16)
  | .andReg _ _ => (0xF00F#16, 0x8002#16)
  | .xorReg _ _ => (0xF00F#16, 0x8003#16)
  | .addReg _ _ => (0xF00F#16, 0x8004#16)
  | .sub _ _ => (0xF00F#16, 0x8005#16)
  | .shr _ => (0xF00F#16, 0x8006#16)
  | .subn _ _ => (0xF00F#16, 0x8007#16)
  | .shl _ => (0xF00F#16, 0x800E#16)
  | .sneReg _ _ => (0xF000#16, 0x9000#16)
  | .ldI _ => (0xF000#16, 0xA000#16)
  | .jpV0 _ => (0xF000#16, 0xB000#16)
  | .rnd _ _ => (0xF000#16, 0xC000#16)
  | .drw _ _ _ => (0xF000#16, 0xD000#16)
  | .skp _ => (0xF0FF#16, 0xE09E#16)
  | .sknp _ => (0xF0FF#16, 0xE0A1#16)
  | .ldVxDt _ => (0xF0FF#16, 0xF007#16)
  | .ldVxK _ => (0xF0FF#16, 0xF00A#16)
  | .ldDtVx _ => (0xF0FF#16, 0xF015#16)
  | .ldStVx _ => (0xF0FF#16, 0xF018#16)
  | .addIVx _ => (0xF0FF#16, 0xF01E#16)
  | .ldFVx _ => (0xF0FF#16, 0xF029#16)
  | .ldBVx _ => (0xF0FF#16, 0xF033#16)
  | .ldMemVx _ => (0xF0FF#16, 0xF055#16)
  | .ldVxMem _ => (0xF0FF#16, 0xF065#16)

end Sys2Proof
end

