-- ==== Sys2Proof/Config.lean ====
section
/-! DEFINITION. What is fixed for one machine (spec R7, R37, R39): the configuration registers and the two
parameters the spec leaves open, and the free value of the pseudo-random source (R41). -/

namespace Sys2Proof

/-- The parameters and the configuration of one machine. No instruction and no cycle changes them (R37);
State holds one (assumption 3, DESIGN CHOICE), so that what is claimed of every state is claimed of every value
of these: safe; a claim that rests on the defaults in State.reset is unsafe. -/
structure Config where
  /-- STACK_DEPTH, the capacity of the call stack in entries; legal values 1 and up (R7, D8). -/
  stackDepth : Nat
  /-- GLYPH_ROM, the 80 bytes that Reset copies to 0x000..0x04F (R7, R67, D28). -/
  glyphRom : Vector Byte 80
  /-- cyclesPerUpdate: the cycles one tick runs; any natural number (R37, D35). -/
  cyclesPerUpdate : Nat
  /-- cyclesPerTimerDecrement: the cycles between two timer decrements; legal values 1 and up (R37, D23). -/
  cyclesPerTimerDecrement : Nat
  /-- traceEnabled: whether each executed instruction emits a trace record (R37, R127). -/
  traceEnabled : Bool
  deriving DecidableEq, Repr

/-- The draws of `RandomByte()` (R41): the value of the n-th draw. It has no body: nothing can be proved of
its value, as R41 asks ("a free 8-bit input of the cycle, under no law"). Assumption 2, DESIGN CHOICE, safe. -/
opaque Config.randomByte : Nat → Byte

end Sys2Proof
end

