-- ==== Sys2Proof/Machine/Defaults.lean ====
section
/-! DEFINITION. The default parameters and configuration of the machine (spec R7, R37, R67, R278). -/

namespace Sys2Proof.Machine

/-- The default GLYPH_ROM: the customary hexadecimal font, one glyph of 5 rows a line (R67; from general knowledge
by the spec's own words, G4). -/
def customaryFont : Vector Byte 80 :=
  #v[0xF0, 0x90, 0x90, 0x90, 0xF0,
   0x20, 0x60, 0x20, 0x20, 0x70,
   0xF0, 0x10, 0xF0, 0x80, 0xF0,
   0xF0, 0x10, 0xF0, 0x10, 0xF0,
   0x90, 0x90, 0xF0, 0x10, 0x10,
   0xF0, 0x80, 0xF0, 0x10, 0xF0,
   0xF0, 0x80, 0xF0, 0x90, 0xF0,
   0xF0, 0x10, 0x20, 0x40, 0x40,
   0xF0, 0x90, 0xF0, 0x90, 0xF0,
   0xF0, 0x90, 0xF0, 0x10, 0xF0,
   0xF0, 0x90, 0xF0, 0x90, 0x90,
   0xE0, 0x90, 0xE0, 0x90, 0xE0,
   0xF0, 0x80, 0x80, 0x80, 0xF0,
   0xE0, 0x90, 0x90, 0x90, 0xE0,
   0xF0, 0x80, 0xF0, 0x80, 0xF0,
   0xF0, 0x80, 0xF0, 0x80, 0x80]

/-- The configuration a host that sets nothing leaves (R278), with the default STACK_DEPTH and GLYPH_ROM (R7).
Assumption 3: DESIGN CHOICE, unsafe for a claim that rests on one of these values. -/
def defaultConfig : Config where
  stackDepth := 16
  glyphRom := customaryFont
  cyclesPerUpdate := 1
  cyclesPerTimerDecrement := 10
  traceEnabled := false

end Sys2Proof.Machine
end

