-- ==== Sys2Proof/Machine/State.lean ====
section
/-! DEFINITION. The state of Chip8Emu CORE as plain data (spec R20), the state after Reset (R40), and the reasons a
step can stop. -/

namespace Sys2Proof.Machine

/-- MEM as the list of the bytes that differ from the reset contents, addresses strictly rising (R28, R60;
assumption 4). -/
abbrev Memory := List Host.Cell

/-- FB: 32 rows of 64 one-bit cells; cell `c` of row `r` is bit `c` of `rows[r]` (R31, R69). -/
abbrev Framebuffer := Vector (BitVec 64) 32

/-- The cause codes of R231; CAUSE is "an enumeration of the six names". -/
inductive Cause where
  /-- 0, no fault has occurred. -/
  | none
  /-- 1, PC + 1 > 4095 at the start of a cycle (R232). -/
  | fetchOob
  /-- 2, RET with SP = 0 (R233). -/
  | stackUnderflow
  /-- 3, CALL with SP = STACK_DEPTH (R234). -/
  | stackOverflow
  /-- 4, a data access through I would touch an address above 4095 (R235). -/
  | memOob
  /-- 5, keypad index above 15 (R237). -/
  | keyOob
  deriving DecidableEq, Repr

/-- A record delivered to one of the output sinks (R246, R252, R253, R254). -/
inductive Event where
  /-- sound_edge: one update of ST from non-zero to zero (R246). -/
  | soundEdge
  /-- diagnostic: the raw word and the PC of an unrecognized word's cycle (R253). -/
  | diagnostic (word pc : Word)
  /-- trace: the PC, the word and the instruction of a completed handler (R127; assumption 10). -/
  | trace (pc word : Word) (instr : Instr)
  deriving DecidableEq, Repr

/-- Everything the machine holds between two cycles (R20). -/
structure State where
  /-- V0..VF (R21). -/
  v : Vector Byte 16
  /-- I, the index register (R25). -/
  index : Word
  /-- PC (R23). -/
  pc : Word
  /-- STACK[0..STACK_DEPTH-1], entry 0 first; entries at or above SP are kept and never read (R29). -/
  stack : List Word
  /-- SP, the number of stack entries in use (R29). -/
  sp : Nat
  /-- DT, the delay timer (R26). -/
  dt : Byte
  /-- ST, the sound timer (R27). -/
  st : Byte
  /-- FB, the framebuffer (R31). -/
  fb : Framebuffer
  /-- KEY: bit k is 1 when key k is pressed; written by the input collaborator only (R32). -/
  keys : BitVec 16
  /-- DIRTY (R33). -/
  dirty : Bool
  /-- TDIV, completed cycles since the last timer decrement (R34). -/
  tdiv : Nat
  /-- HALT (R36). -/
  halt : Bool
  /-- CAUSE (R36, R231). -/
  cause : Cause
  /-- EPC, the PC of the faulting instruction (R36). -/
  epc : Word
  /-- EWORD, the faulting instruction's word (R36). -/
  eword : Word
  /-- EADDR, the offending address or index (R36). -/
  eaddr : Word
  /-- MEM (R28). -/
  mem : Memory
  /-- The configuration registers and the parameters (R7, R37); no cycle changes them. -/
  config : Config
  /-- The model's own counter of draws of the free value `Config.randomByte` (R41; assumption 2). -/
  draws : Nat
  /-- The model's own record of what the CORE delivered to its output sinks, newest first (R246, R252, R253;
  assumption 5). No rule reads it. -/
  emitted : List Event
  deriving DecidableEq, Repr

/-- Why a step answers `fault`. The spec's own faults (R231) are next states with HALT = 1 (assumption 1), not these. -/
inductive Fault where
  /-- Raised by CALL and RET when SP names an entry outside STACK[0..STACK_DEPTH-1]. Only a state that breaks
  "0 <= SP <= STACK_DEPTH" (R29) meets it, and no run reaches one. Safe: the model stops (assumption 9). -/
  | noStackEntry
  deriving DecidableEq, Repr

/-- Why a step, or a host operation, is refused. -/
inductive Refusal where
  /-- Raised by `exec` for an instruction with no meaning yet; no arm raises it now. Safe. -/
  | notModelled (mnemonic : String)
  /-- Raised by `step` and by the host's Configure for a configuration the spec calls illegal: "0 is not a legal value
  and a model refuses a configuration that has it" (R37, R7). Safe (assumption 8). -/
  | illegalConfiguration
  /-- Raised by the host's Configure after the first tick since Reset (R37, R254). Safe (assumption 11). -/
  | configureTooLate
  /-- Raised by the host's LoadImage after the first cycle since Reset (R277). Safe (assumption 11). -/
  | loadTooLate
  /-- Raised by the host's LoadImage for more than 3584 bytes: "the model's LoadImage has no move for it" (R277).
  Safe (assumption 11). -/
  | imageTooLong
  /-- Raised by the host's Tick while a tick still has cycles to run: "the host gets control back only after the last
  cycle" (R250). Safe (assumption 11). -/
  | tickInProgress
  /-- Raised by the Tick Driver's cycle when no tick has a cycle to run (R250). Safe (assumption 11). -/
  | noCycleDue
  deriving DecidableEq, Repr

/-- The machine right after Reset (R40), with the default configuration and parameters (R278, assumption 3): all zero,
PC at 0x0200, memory at its reset contents. `draws` and `emitted` are the model's own (assumptions 2 and 5). -/
def State.reset : State where
  v := Vector.replicate 16 0
  index := 0
  pc := 0x0200
  stack := List.replicate defaultConfig.stackDepth 0
  sp := 0
  dt := 0
  st := 0
  fb := Vector.replicate 32 0
  keys := 0
  dirty := false
  tdiv := 0
  halt := false
  cause := .none
  epc := 0
  eword := 0
  eaddr := 0
  mem := []
  config := defaultConfig
  draws := 0
  emitted := []

end Sys2Proof.Machine
end

