-- ==== Sys2Proof/Machine/Ops.lean ====
section
/-! DEFINITION. The named operations over memory, registers, the framebuffer, the sinks and the fault registers, which
the meanings are written over. -/

namespace Sys2Proof.Machine

/-! Memory (spec R28, R60 to R67). -/

/-- The number of bytes of MEM (R6). -/
def memSize : Nat := 4096

/-- What an unlisted address reads as: the contents Reset gives it, GLYPH_ROM at 0x000..0x04F and 0x00 above
(R40, R66; assumption 4). -/
def Memory.resetByte (rom : Vector Byte 80) (a : Nat) : Byte :=
  if h : a < 80 then rom[a] else 0

/-- The listed byte of an address. -/
def Memory.find : Memory → Nat → Option Byte
  | [], _ => none
  | (b, w) :: rest, a => if b = a then some w else Memory.find rest a

/-- `MemRead(a, 1)` (R8). -/
def Memory.read (rom : Vector Byte 80) (m : Memory) (a : Nat) : Byte :=
  (m.find a).getD (Memory.resetByte rom a)

/-- The list with `a` listed as `v`, at its place in the order. -/
def Memory.insert : Memory → Nat → Byte → Memory
  | [], a, v => [(a, v)]
  | (b, w) :: rest, a, v =>
    if b < a then (b, w) :: Memory.insert rest a v
    else if b = a then (a, v) :: rest
    else (a, v) :: (b, w) :: rest

/-- The list with no entry for `a`. -/
def Memory.erase (m : Memory) (a : Nat) : Memory := m.filter fun c => c.1 != a

/-- `MemWrite(a, 1, v)` (R8), keeping the canonical form: a byte that equals the reset contents is not listed. Outside
[0, 4095] there is nothing to write; every rule checks its range first (R63). -/
def Memory.write (rom : Vector Byte 80) (m : Memory) (a : Nat) (v : Byte) : Memory :=
  if memSize ≤ a then m
  else if v = Memory.resetByte rom a then m.erase a
  else m.insert a v

/-- The canonical form from address `lo` on: addresses strictly rising, inside MEM, and no entry that equals the reset
contents. -/
def Memory.wfFrom (rom : Vector Byte 80) (lo : Nat) : Memory → Bool
  | [] => true
  | (a, v) :: rest =>
    decide (lo ≤ a) && decide (a < memSize) && (v != Memory.resetByte rom a) && Memory.wfFrom rom (a + 1) rest

/-- The canonical form of MEM. -/
def Memory.wf (rom : Vector Byte 80) (m : Memory) : Bool := Memory.wfFrom rom 0 m

/-- MEM[a] (R28). -/
def State.readByte (s : State) (a : Nat) : Byte := s.mem.read s.config.glyphRom a

/-- MEM[a] <- v (R28). -/
def State.writeByte (s : State) (a : Nat) (v : Byte) : State :=
  { s with mem := s.mem.write s.config.glyphRom a v }

/-- The bytes `bs` stored at `a`, `a + 1`, ... in ascending order (R62, R224). -/
def State.storeBytes (s : State) (a : Nat) : List Byte → State
  | [] => s
  | b :: bs => (s.writeByte a b).storeBytes (a + 1) bs

/-- The Fetch Unit (R61, R64, R122): the word at PC, high byte first, or none if PC + 1 > 4095. -/
def State.fetch (s : State) : Option Word :=
  if 4095 < s.pc.toNat + 1 then none
  else some (wordOfBytes (s.readByte s.pc.toNat) (s.readByte (s.pc.toNat + 1)))

/-- The bytes of a word placed where the next fetch reads them, if the PC can be fetched from. -/
def State.placeWord (s : State) (bytes : List Byte) : State :=
  if 4095 < s.pc.toNat + 1 then s else s.storeBytes s.pc.toNat bytes

/-! Registers (spec R21, R23, R25). -/

/-- V[x] (R21). -/
def State.reg (s : State) (x : RegNum) : Byte := s.v[x.toNat]'(x.isLt)

/-- V[x] <- b (R21). -/
def State.setReg (s : State) (x : RegNum) (b : Byte) : State :=
  { s with v := s.v.set x.toNat b x.isLt }

/-- V[0..x] <- the bytes at a, a + 1, ...; registers above x keep their values (R223). -/
def State.loadRegs (s : State) (x : RegNum) (a : Nat) : State :=
  { s with v := s.v.mapFinIdx fun k old _ => if k ≤ x.toNat then s.readByte (a + k) else old }

/-- V[0], ..., V[x] in ascending order (R222). -/
def State.regsUpTo (s : State) (x : RegNum) : List Byte := s.v.toList.take (x.toNat + 1)

/-- PC <- target (R23). -/
def State.setPc (s : State) (target : Word) : State := { s with pc := target }

/-- PC <- p + 2, modulo 65536 (R24, R126). -/
def State.advance (s : State) : State := s.setPc (s.pc + 2)

/-- PC <- p + 4 if the condition holds, else p + 2 (R24, R144). -/
def State.skipIf (s : State) (c : Bool) : State := s.setPc (if c then s.pc + 4 else s.pc + 2)

/-- I <- value (R25). -/
def State.setIndex (s : State) (value : Word) : State := { s with index := value }

/-! The sinks and the timers (spec R26, R27, R246, R254). -/

/-- `Emit(sink, record)` (R8): the record is delivered; no other state changes. -/
def State.emit (s : State) (e : Event) : State := { s with emitted := e :: s.emitted }

/-- DT <- b (R26). -/
def State.setDt (s : State) (b : Byte) : State := { s with dt := b }

/-- One update of ST: ST <- b, with a sound edge if the old value is non-zero and the new one zero (R202, R246). -/
def State.updateSt (s : State) (b : Byte) : State :=
  { s with
    st := b
    emitted := if s.st ≠ 0 ∧ b = 0 then .soundEdge :: s.emitted else s.emitted }

/-- TDIV <- n (R34). -/
def State.setTdiv (s : State) (n : Nat) : State := { s with tdiv := n }

/-! The framebuffer (spec R31, R69, R190). -/

/-- FB[off], for a valid offset 0..2047; an offset outside is no cell and reads as 0. -/
def Framebuffer.cell (fb : Framebuffer) (off : Nat) : Bool :=
  if h : off / 64 < 32 then fb[off / 64].getLsbD (off % 64) else false

/-- FB[off] <- FB[off] XOR 1, for a valid offset 0..2047. -/
def Framebuffer.flip (fb : Framebuffer) (off : Nat) : Framebuffer :=
  if h : off / 64 < 32 then fb.set (off / 64) (fb[off / 64] ^^^ (1#64 <<< (off % 64))) else fb

/-- FB[off] of the state (R31). -/
def State.pixel (s : State) (off : Nat) : Bool := s.fb.cell off

/-- FB[i] <- 0 for every i, DIRTY <- 1 (R140). -/
def State.clearScreen (s : State) : State := { s with fb := Vector.replicate 32 0, dirty := true }

/-- One sprite row: the columns of `cols` in order, the sprite byte `b`, the offset `start` of column 0. A set bit at an
offset above 2047 abandons the rest of the row; a set bit elsewhere flips its cell, and flipping a set cell is a
collision (R190). -/
def drawRow (b : Byte) (start : Nat) : List Nat → Framebuffer × Bool → Framebuffer × Bool
  | [], acc => acc
  | col :: cols, (fb, hit) =>
    if b.getLsbD (7 - col) then
      if 2047 < start + col then (fb, hit)
      else drawRow b start cols (fb.flip (start + col), hit || fb.cell (start + col))
    else drawRow b start cols (fb, hit)

/-- The sprite rows in order, `start` the offset of column 0 of the first of them (R190). -/
def drawRows : List Byte → Nat → Framebuffer × Bool → Framebuffer × Bool
  | [], _, acc => acc
  | b :: bs, start, acc => drawRows bs (start + 64) (drawRow b start [0, 1, 2, 3, 4, 5, 6, 7] acc)

/-- The `n` bytes at `a`, `a + 1`, ... (R62). -/
def State.bytesAt (s : State) (a : Nat) : Nat → List Byte
  | 0 => []
  | n + 1 => s.readByte a :: s.bytesAt (a + 1) n

/-- FB and DIRTY after a draw (R190, R33). -/
def State.setScreen (s : State) (fb : Framebuffer) : State := { s with fb := fb, dirty := true }

/-! The call stack (spec R29, R30). -/

/-- STACK[SP] <- v, SP <- SP + 1 (R30); the caller has checked the bound. -/
def State.push (s : State) (v : Word) : State := { s with stack := s.stack.set s.sp v, sp := s.sp + 1 }

/-- SP <- SP - 1 (R30); the popped entry is not erased (R141). -/
def State.dropTop (s : State) : State := { s with sp := s.sp - 1 }

/-! Faults (spec R230 to R237). -/

/-- The code of a cause in the 3-bit CAUSE register (R231). -/
def Cause.code : Cause → BitVec 3
  | .none => 0
  | .fetchOob => 1
  | .stackUnderflow => 2
  | .stackOverflow => 3
  | .memOob => 4
  | .keyOob => 5

/-- Fault entry (R236), the one operation by which every fault of the spec is taken. The cycle has written nothing yet
(R125), so PC is still p and EWORD is the word at p, or 0 if none was fetched (assumption 6). -/
def State.enterFault (s : State) (c : Cause) (addr : Word) : State :=
  { s with
    halt := true
    cause := c
    epc := s.pc
    eword := s.fetch.getD 0
    eaddr := addr }

/-- Whether the `len` bytes from I on touch an address above 4095, the sum taken without wrap (R63). -/
def State.outOfRange (s : State) (len : Nat) : Bool :=
  decide (0 < len) && decide (4095 < s.index.toNat + len - 1)

/-- The lowest offending address of such a range, `max(I, 4096) mod 65536` (R63, R235). -/
def State.offendingAddress (s : State) : Word := BitVec.ofNat 16 (max s.index.toNat 4096)

/-- The whole-range check of a data access of `len` bytes through I (R63): MEM_OOB, or the effect `t`. -/
def State.guardRange (s : State) (len : Nat) (t : State) : Host.Outcome State Fault Refusal :=
  if s.outOfRange len then .next (s.enterFault .memOob s.offendingAddress) else .next t

end Sys2Proof.Machine
end

