-- ==== Sys2Proof/Machine/Flags.lean ====
section
/-! DEFINITION. Every flag VF receives (spec R22), each computed from the exact result (R173), and the order of the two
register writes of a flag-writing instruction (R160). -/

namespace Sys2Proof.Machine

/-- VF of ADD Vx,Vy: 1 if the 9-bit sum exceeds 255 (R167). -/
def carryFlag (a b : Byte) : Byte := if 255 < a.toNat + b.toNat then 1 else 0

/-- VF of SUB and SUBN, minuend first: 0 on borrow, else 1 (R168, R170). -/
def notBorrowFlag (a b : Byte) : Byte := if a.toNat < b.toNat then 0 else 1

/-- VF of SHR: bit 0 before the shift (R169). -/
def shrFlag (a : Byte) : Byte := a &&& 0x01

/-- VF of SHL: the masked top bit before the shift, 0x00 or 0x80 (R171). -/
def shlFlag (a : Byte) : Byte := a &&& 0x80

/-- VF of ADD I,Vx: 1 if the unreduced sum exceeds 0x0FFF (R203). -/
def indexFlag (i : Word) (b : Byte) : Byte := if 0x0FFF < i.toNat + b.toNat then 1 else 0

/-- VF of DRW: 1 if a set cell became unset (R190). -/
def collisionFlag (hit : Bool) : Byte := if hit then 1 else 0

/-- VF <- flag (R22). -/
def State.setFlag (s : State) (flag : Byte) : State := s.setReg 15 flag

/-- VF <- flag, then V[X] <- result, so that the result wins when X = 15 (R160). -/
def State.setFlagThenReg (s : State) (x : RegNum) (flag result : Byte) : State :=
  (s.setFlag flag).setReg x result

end Sys2Proof.Machine
end

