-- ==== Sys2Proof/Machine/ArithLogic.lean ====
section
/-! DEFINITION. The arithmetic and logic handlers (spec 42_arith_logic.md). Byte arithmetic wraps modulo 256 (R173). -/

namespace Sys2Proof.Machine

/-- LD Vx,byte (R161). -/
def execLdByte (x : RegNum) (nn : Byte) (s : State) : Host.Outcome State Fault Refusal :=
  .next (s.setReg x nn).advance

/-- ADD Vx,byte (R162); VF is not written. -/
def execAddByte (x : RegNum) (nn : Byte) (s : State) : Host.Outcome State Fault Refusal :=
  .next (s.setReg x (s.reg x + nn)).advance

/-- LD Vx,Vy (R163). -/
def execLdReg (x y : RegNum) (s : State) : Host.Outcome State Fault Refusal :=
  .next (s.setReg x (s.reg y)).advance

/-- OR Vx,Vy (R164). -/
def execOrReg (x y : RegNum) (s : State) : Host.Outcome State Fault Refusal :=
  .next (s.setReg x (s.reg x ||| s.reg y)).advance

/-- AND Vx,Vy (R165). -/
def execAndReg (x y : RegNum) (s : State) : Host.Outcome State Fault Refusal :=
  .next (s.setReg x (s.reg x &&& s.reg y)).advance

/-- XOR Vx,Vy (R166). -/
def execXorReg (x y : RegNum) (s : State) : Host.Outcome State Fault Refusal :=
  .next (s.setReg x (s.reg x ^^^ s.reg y)).advance

/-- ADD Vx,Vy (R167). -/
def execAddReg (x y : RegNum) (s : State) : Host.Outcome State Fault Refusal :=
  .next (s.setFlagThenReg x (carryFlag (s.reg x) (s.reg y)) (s.reg x + s.reg y)).advance

/-- SUB Vx,Vy (R168). -/
def execSub (x y : RegNum) (s : State) : Host.Outcome State Fault Refusal :=
  .next (s.setFlagThenReg x (notBorrowFlag (s.reg x) (s.reg y)) (s.reg x - s.reg y)).advance

/-- SHR Vx (R169). -/
def execShr (x : RegNum) (s : State) : Host.Outcome State Fault Refusal :=
  .next (s.setFlagThenReg x (shrFlag (s.reg x)) (s.reg x >>> 1)).advance

/-- SUBN Vx,Vy (R170). -/
def execSubn (x y : RegNum) (s : State) : Host.Outcome State Fault Refusal :=
  .next (s.setFlagThenReg x (notBorrowFlag (s.reg y) (s.reg x)) (s.reg y - s.reg x)).advance

/-- SHL Vx (R171). -/
def execShl (x : RegNum) (s : State) : Host.Outcome State Fault Refusal :=
  .next (s.setFlagThenReg x (shlFlag (s.reg x)) (s.reg x <<< 1)).advance

/-- The next draw of `RandomByte()`, a free value (R41; assumption 2). -/
def State.drawnByte (s : State) : Byte := Config.randomByte s.draws

/-- The draw is used up (R41: two draws are independent). -/
def State.countDraw (s : State) : State := { s with draws := s.draws + 1 }

/-- RND Vx,byte (R172). -/
def execRnd (x : RegNum) (nn : Byte) (s : State) : Host.Outcome State Fault Refusal :=
  .next ((s.setReg x (nn &&& s.drawnByte)).countDraw).advance

end Sys2Proof.Machine
end

