-- ==== Sys2Proof/Machine/Operands.lean ====
section
/-! DEFINITION. The operand forms: immediates and how registers name keys and glyphs (spec R92, R93, R204, R205). -/

namespace Sys2Proof.Machine

/-- `zext_16(NNN)`, an address operand (R93). -/
def addrOperand (nnn : BitVec 12) : Word := nnn.setWidth 16

/-- `zext_16(V[X])` (R93). -/
def byteOperand (b : Byte) : Word := b.setWidth 16

/-- KEY[k] (R32). -/
def State.keyDown (s : State) (k : Nat) : Bool := s.keys.getLsbD k

/-- The least k in 0..15 with KEY[k] = 1, scanning upward (R207). -/
def State.firstKey (s : State) : Option Nat := (List.range 16).find? s.keyDown

/-- The address of the glyph a byte selects, byte x 5, with no masking (R204). -/
def glyphAddress (b : Byte) : Word := BitVec.ofNat 16 (b.toNat * 5)

/-- The three decimal digits of a byte, hundreds first (R221). -/
def bcdDigits (b : Byte) : List Byte :=
  [BitVec.ofNat 8 (b.toNat / 100), BitVec.ofNat 8 (b.toNat / 10 % 10), BitVec.ofNat 8 (b.toNat % 10)]

end Sys2Proof.Machine
end

