-- ==== Sys2Proof/Machine/ControlFlow.lean ====
section
/-! DEFINITION. The control-flow handlers (spec 41_control_flow.md). Each is entered with PC = p (R126). -/

namespace Sys2Proof.Machine

/-- CLS (R140). -/
def execCls (s : State) : Host.Outcome State Fault Refusal := .next s.clearScreen.advance

/-- RET (R141, R233): STACK_UNDERFLOW on an empty stack, else PC <- popped + 2. -/
def execRet (s : State) : Host.Outcome State Fault Refusal :=
  if s.sp = 0 then .next (s.enterFault .stackUnderflow 0)
  else match s.stack[s.sp - 1]? with
    | none => .fault .noStackEntry
    | some r => .next (s.dropTop.setPc (r + 2))

/-- JP addr (R142). -/
def execJp (nnn : BitVec 12) (s : State) : Host.Outcome State Fault Refusal := .next (s.setPc (addrOperand nnn))

/-- CALL addr (R143, R234): STACK_OVERFLOW on a full stack, else p is pushed and PC <- NNN. -/
def execCall (nnn : BitVec 12) (s : State) : Host.Outcome State Fault Refusal :=
  if s.sp = s.config.stackDepth then .next (s.enterFault .stackOverflow 0)
  else if s.stack.length ≤ s.sp then .fault .noStackEntry
  else .next ((s.push s.pc).setPc (addrOperand nnn))

/-- SE Vx,byte (R144). -/
def execSeByte (x : RegNum) (nn : Byte) (s : State) : Host.Outcome State Fault Refusal :=
  .next (s.skipIf (s.reg x = nn))

/-- SNE Vx,byte (R145). -/
def execSneByte (x : RegNum) (nn : Byte) (s : State) : Host.Outcome State Fault Refusal :=
  .next (s.skipIf (s.reg x ≠ nn))

/-- SE Vx,Vy (R146). -/
def execSeReg (x y : RegNum) (s : State) : Host.Outcome State Fault Refusal :=
  .next (s.skipIf (s.reg x = s.reg y))

/-- SNE Vx,Vy (R147). -/
def execSneReg (x y : RegNum) (s : State) : Host.Outcome State Fault Refusal :=
  .next (s.skipIf (s.reg x ≠ s.reg y))

/-- JP V0,addr (R148): the sum is neither reduced nor masked. -/
def execJpV0 (nnn : BitVec 12) (s : State) : Host.Outcome State Fault Refusal :=
  .next (s.setPc (byteOperand (s.reg 0) + addrOperand nnn))

end Sys2Proof.Machine
end

