-- ==== Sys2Proof/Machine/Graphics.lean ====
section
/-! DEFINITION. The graphics handler: sprite blit and collision (spec 43_graphics.md). -/

namespace Sys2Proof.Machine

/-- The framebuffer and the collision of a draw: origin from the old V[X], V[Y], the `n` sprite bytes at I, offsets in
full precision (R190, R193). -/
def State.blit (s : State) (x y : RegNum) (n : BitVec 4) : Framebuffer × Bool :=
  drawRows (s.bytesAt s.index.toNat n.toNat) ((s.reg x).toNat + (s.reg y).toNat * 64) (s.fb, false)

/-- DRW Vx,Vy,N (R190 to R193, R235). -/
def execDrw (x y : RegNum) (n : BitVec 4) (s : State) : Host.Outcome State Fault Refusal :=
  s.guardRange n.toNat
    (((s.setFlag (collisionFlag (s.blit x y n).2)).setScreen (s.blit x y n).1).advance)

end Sys2Proof.Machine
end

