-- ==== Sys2Proof/Machine/MemoryBcd.lean ====
section
/-! DEFINITION. The memory and BCD handlers (spec 45_memory_bcd.md). I is never modified by an access (R224). -/

namespace Sys2Proof.Machine

/-- LD I,addr (R220). -/
def execLdI (nnn : BitVec 12) (s : State) : Host.Outcome State Fault Refusal :=
  .next (s.setIndex (addrOperand nnn)).advance

/-- LD B,Vx (R221, R235). -/
def execLdBVx (x : RegNum) (s : State) : Host.Outcome State Fault Refusal :=
  s.guardRange 3 (s.storeBytes s.index.toNat (bcdDigits (s.reg x))).advance

/-- LD [I],Vx (R222, R235). -/
def execLdMemVx (x : RegNum) (s : State) : Host.Outcome State Fault Refusal :=
  s.guardRange (x.toNat + 1) (s.storeBytes s.index.toNat (s.regsUpTo x)).advance

/-- LD Vx,[I] (R223, R235). -/
def execLdVxMem (x : RegNum) (s : State) : Host.Outcome State Fault Refusal :=
  s.guardRange (x.toNat + 1) (s.loadRegs x s.index.toNat).advance

end Sys2Proof.Machine
end

