-- ==== Sys2Proof/Machine/TimerKeypad.lean ====
section
/-! DEFINITION. The timer and keypad handlers (spec 44_timer_keypad.md). -/

namespace Sys2Proof.Machine

/-- LD Vx,DT (R200). -/
def execLdVxDt (x : RegNum) (s : State) : Host.Outcome State Fault Refusal := .next (s.setReg x s.dt).advance

/-- LD DT,Vx (R201); TDIV is not touched. -/
def execLdDtVx (x : RegNum) (s : State) : Host.Outcome State Fault Refusal := .next (s.setDt (s.reg x)).advance

/-- LD ST,Vx (R202), with the sound edge of the write (R246). -/
def execLdStVx (x : RegNum) (s : State) : Host.Outcome State Fault Refusal := .next (s.updateSt (s.reg x)).advance

/-- ADD I,Vx (R203): V[X] is read before VF is written. -/
def execAddIVx (x : RegNum) (s : State) : Host.Outcome State Fault Refusal :=
  .next (((s.setFlag (indexFlag s.index (s.reg x))).setIndex (s.index + byteOperand (s.reg x))).advance)

/-- LD F,Vx (R204). -/
def execLdFVx (x : RegNum) (s : State) : Host.Outcome State Fault Refusal :=
  .next (s.setIndex (glyphAddress (s.reg x))).advance

/-- The keypad index check of SKP and SKNP (R237): KEY_OOB when V[X] > 15, else the skip. -/
def State.guardKey (s : State) (x : RegNum) (skip : Bool) : Host.Outcome State Fault Refusal :=
  if 15 < (s.reg x).toNat then .next (s.enterFault .keyOob (byteOperand (s.reg x))) else .next (s.skipIf skip)

/-- SKP Vx (R205). -/
def execSkp (x : RegNum) (s : State) : Host.Outcome State Fault Refusal :=
  s.guardKey x (s.keyDown (s.reg x).toNat)

/-- SKNP Vx (R206). -/
def execSknp (x : RegNum) (s : State) : Host.Outcome State Fault Refusal :=
  s.guardKey x (!s.keyDown (s.reg x).toNat)

/-- LD Vx,K (R207): with no key down nothing changes and PC stays. -/
def execLdVxK (x : RegNum) (s : State) : Host.Outcome State Fault Refusal :=
  match s.firstKey with
  | none => .next s
  | some k => .next (s.setReg x (BitVec.ofNat 8 k)).advance

end Sys2Proof.Machine
end

