-- ==== Sys2Proof/WellFormed.lean ====
section
/-! DEFINITION. What the spec calls legal of the terms the model is given: a configuration (R7, R37) and a
program image (R277). An instruction needs no check of its own: each operand has exactly the width of its
field (R92), so every term of `Instr` is encodable and well-formed. -/

namespace Sys2Proof

/-- A legal configuration: STACK_DEPTH at least 1 (R7) and cyclesPerTimerDecrement at least 1 ("0 is not a
legal value and a model refuses a configuration that has it", R37). -/
def Config.wf (c : Config) : Bool :=
  decide (1 ≤ c.stackDepth) && decide (1 ≤ c.cyclesPerTimerDecrement)

/-- MAX_IMAGE, the most bytes a program image may have: 4096 - 512 (R6, R277). -/
def maxImage : Nat := 3584

/-- A program image the loader may place: at most `maxImage` bytes (R277). -/
def imageWf (bytes : List Byte) : Bool := decide (bytes.length ≤ maxImage)

end Sys2Proof
end

