-- ==== Sys2Proof/Machine/Cycle.lean ====
section
/-! DEFINITION. The cycle (spec R120): halt check, fetch, decode, one handler, timer bookkeeping, trace; and how it ended. -/

namespace Sys2Proof.Machine

/-- How a cycle ended, the outcome the spec asks a model to tell apart (R236, R124, R121). -/
inductive CycleEnd where
  /-- The handler of the fetched instruction ran to completion, a waiting LD Vx,K included (R120, R127). -/
  | completed
  /-- The word was unrecognized: the stall, "a hang", no completed instruction (R124, R238). -/
  | stalled
  /-- The fault outcome: "distinct from an ordinary step and from a finished run" (R236). -/
  | faulted (cause : Cause)
  /-- The CORE was halted when the cycle began, and nothing happened (R121, R240). -/
  | halted
  deriving DecidableEq, Repr

/-- A timer after one decrement: it stays at 0 (R245). -/
def decremented (b : Byte) : Byte := if b = 0 then 0 else b - 1

/-- TimerBookkeeping, step S7 (R244): every cyclesPerTimerDecrement-th call decrements both timers, each saturating at 0
(R245), with the sound edge of ST's step from 1 to 0 (R246). -/
def State.timerBookkeeping (s : State) : State :=
  if s.config.cyclesPerTimerDecrement ≤ s.tdiv + 1 then
    ((s.setTdiv 0).setDt (decremented s.dt)).updateSt (decremented s.st)
  else s.setTdiv (s.tdiv + 1)

/-- Step S8 (R127): one trace record when traceEnabled is set. -/
def State.traceStep (s : State) (p w : Word) (i : Instr) : State :=
  if s.config.traceEnabled then s.emit (.trace p w i) else s

/-- What follows the handler: after a fault nothing (R236), else timer bookkeeping and trace (R120 steps S7, S8). -/
def State.finishCycle (t : State) (p w : Word) (i : Instr) : State :=
  if t.halt then t else t.timerBookkeeping.traceStep p w i

/-- The cycle of an unrecognized word (R124): the diagnostic and the timer bookkeeping, nothing else. -/
def State.stallCycle (s : State) (w : Word) : State := (s.emit (.diagnostic w s.pc)).timerBookkeeping

/-- How the cycle of a handler that left `t` ended: a handler leaves HALT = 1 only by fault entry (R236). -/
def State.handlerEnd (t : State) : CycleEnd := if t.halt then .faulted t.cause else .completed

/-- The cycle of a decoded instruction, from its handler on (R120 steps S6 to S8). -/
def runInstr (i : Instr) (w : Word) (s : State) : Host.Outcome (State × CycleEnd) Fault Refusal :=
  match exec i s with
  | .next t => .next (t.finishCycle s.pc w i, t.handlerEnd)
  | .fault r => .fault r
  | .refused r => .refused r

/-- One cycle (R120): the state after it and how it ended. A configuration the spec calls illegal is refused (R37; assumption 8). A halted CORE does nothing
(R121). PC + 1 > 4095 is FETCH_OOB (R122, R232). -/
def cycle (s : State) : Host.Outcome (State × CycleEnd) Fault Refusal :=
  if s.config.wf = false then .refused .illegalConfiguration
  else if s.halt then .next (s, .halted)
  else match s.fetch with
    | none => .next (s.enterFault .fetchOob s.pc, .faulted .fetchOob)
    | some w => match decodeWord w with
      | .unrecognized => .next (s.stallCycle w, .stalled)
      | .recognized i => runInstr i w s

/-- The state a cycle leaves, whatever its end; the fault stays in it as HALT = 1 and CAUSE (R236; assumption 1). -/
def stateOf : Host.Outcome (State × CycleEnd) Fault Refusal → Host.Outcome State Fault Refusal
  | .next r => .next r.1
  | .fault r => .fault r
  | .refused r => .refused r

end Sys2Proof.Machine
end

