-- ==== Sys2Proof/Machine/Step.lean ====
section
/-! DEFINITION. The step of the machine is one cycle (spec R120), and where a step fetches its instruction. -/

namespace Sys2Proof.Machine

/-- One step: the state after one cycle, "the atomic step of the model" (R120). -/
def step (s : State) : Host.Outcome State Fault Refusal := stateOf (cycle s)

/-- The state with an instruction of `nbits` bits, numbered as spec/opcode_table.json numbers them, at the PC, high byte
first (R61): the next step fetches it. It stands for the loader's LoadImage (R277; assumption 7). A PC that cannot be
fetched from leaves the state as it is. -/
def State.withFetchWord (s : State) (nbits w : Nat) : State :=
  s.placeWord (bytesOfWord (BitVec.ofNat 16 (w % 2 ^ nbits)))

end Sys2Proof.Machine
end

