-- ==== Sys2Proof/Machine/HostInterface.lean ====
section
/-! DEFINITION. The operations at the CORE's boundary (spec R254) and the protocol that says when each is legal. Each is
one action between cycles, and a tick is a sequence of them. -/

namespace Sys2Proof.Machine

/-- Reset (R40, R270, R271): the reset state, whatever came before. The configuration and the parameters survive (R37,
R271), and so does what belongs to others: the pseudo-random source and the sinks' contents (R272). -/
def State.hostReset (s : State) : State :=
  { State.reset with
    stack := List.replicate s.config.stackDepth 0
    config := s.config
    draws := s.draws
    emitted := s.emitted }

/-- Configure (R37, R254): the three configuration registers. -/
def State.configure (s : State) (perUpdate perDecrement : Nat) (trace : Bool) : State :=
  { s with config :=
      { s.config with
        cyclesPerUpdate := perUpdate
        cyclesPerTimerDecrement := perDecrement
        traceEnabled := trace } }

/-- PROG_BASE, where the loader places the image (R6, R277). -/
def progBase : Nat := 0x200

/-- LoadImage (R277): MEM[0x200 + i] <- bytes[i]. -/
def State.loadImage (s : State) (bytes : List Byte) : State := s.storeBytes progBase bytes

/-- SetKey(k, b) (R251): KEY[k] <- b. -/
def State.setKey (s : State) (k : BitVec 4) (down : Bool) : State :=
  { s with keys :=
      if down then s.keys ||| (1#16 <<< k.toNat) else s.keys &&& ~~~(1#16 <<< k.toNat) }

/-- KEY as the input collaborator supplies it before a cycle (R251: "any 16-bit vector, under no law"). -/
def State.setKeys (s : State) (keys : BitVec 16) : State := { s with keys := keys }

/-- ReadFramebuffer (R248): the 2048 cells in row-major order. -/
def State.readFramebuffer (s : State) : List Bool := (List.range 2048).map s.pixel

/-- ReadAndClearDirty (R249): the value of DIRTY, and DIRTY <- 0. -/
def State.readAndClearDirty (s : State) : Bool × State := (s.dirty, { s with dirty := false })

/-- What ReadStatus returns (R36, R254). -/
structure Status where
  halt : Bool
  cause : Cause
  epc : Word
  eword : Word
  eaddr : Word
  deriving DecidableEq, Repr

/-- ReadStatus (R254); no side effect. -/
def State.readStatus (s : State) : Status :=
  { halt := s.halt, cause := s.cause, epc := s.epc, eword := s.eword, eaddr := s.eaddr }

/-- `n` cycles (R250), the input collaborator supplying the listed KEY values before the first of them, one a cycle
(R251); when the list ends KEY stays as it is. -/
def runCycles : Nat → List (BitVec 16) → State → Host.Outcome State Fault Refusal
  | 0, _, s => .next s
  | n + 1, [], s =>
    match step s with
    | .next t => runCycles n [] t
    | .fault r => .fault r
    | .refused r => .refused r
  | n + 1, k :: ks, s =>
    match step (s.setKeys k) with
    | .next t => runCycles n ks t
    | .fault r => .fault r
    | .refused r => .refused r

/-- A whole tick as one function (R250): cyclesPerUpdate cycles with nothing but KEY between them. The host's moves of
the same tick are `tickMoves`. -/
def tick (keys : List (BitVec 16)) (s : State) : Host.Outcome State Fault Refusal :=
  runCycles s.config.cyclesPerUpdate keys s

/-- The moves at the CORE's boundary (R254). A tick "is not atomic toward the model (it is a sequence of cycles)" (R250): `tick`
begins one, `cycle` is the Tick Driver's next cycle of it, and every other move may stand between any two cycles (R74,
R250, R251, R270). -/
inductive HostOp where
  | reset
  | configure (perUpdate perDecrement : Nat) (trace : Bool)
  | loadImage (bytes : List Byte)
  | tick
  | cycle
  | setKey (k : BitVec 4) (down : Bool)
  /-- KEY as the input collaborator supplies it before a cycle, any 16-bit vector (R251). -/
  | setKeys (keys : BitVec 16)
  | readFramebuffer
  | readAndClearDirty
  | readStatus
  deriving DecidableEq, Repr

/-- What a move returns to the host (R254), and of a cycle how it ended (R236). -/
inductive Reply where
  | done
  | cycle (ending : CycleEnd)
  | framebuffer (cells : List Bool)
  | dirty (value : Bool)
  | status (value : Status)
  deriving DecidableEq, Repr

/-- The CORE, the Tick Driver's progress, and how far the host's protocol has come since Reset (assumption 11). -/
structure Session where
  /-- The CORE. -/
  state : State
  /-- The cycles the tick in progress still has to run; 0 between ticks (R250). -/
  cyclesLeft : Nat
  /-- No tick has begun and no cycle has run since Reset, so Configure is legal (R37, R254). -/
  beforeTick : Bool
  /-- No cycle has run since Reset, so LoadImage is legal (R277, R254). -/
  beforeCycle : Bool
  deriving DecidableEq, Repr

/-- The session right after Reset, with no tick in progress. -/
def Session.fresh (s : State) : Session := { state := s, cyclesLeft := 0, beforeTick := true, beforeCycle := true }

/-- The session with another CORE, all else kept. -/
def Session.setState (h : Session) (s : State) : Session := { h with state := s }

/-- Reset (R270), between ticks or between two cycles of one; the tick it falls into goes on, for R250's loop has no other
end (assumption 11). -/
def Session.reset (h : Session) : Session :=
  { h with state := h.state.hostReset, beforeTick := true, beforeCycle := true }

/-- Configure (R37, R278): between Reset and the first tick. -/
def Session.configure (h : Session) (perUpdate perDecrement : Nat) (trace : Bool) :
    Host.Outcome (Session × Reply) Fault Refusal :=
  if h.beforeTick = false then .refused .configureTooLate
  else if (h.state.configure perUpdate perDecrement trace).config.wf = false then .refused .illegalConfiguration
  else .next (h.setState (h.state.configure perUpdate perDecrement trace), .done)

/-- LoadImage (R277): between Reset and the first cycle. -/
def Session.loadImage (h : Session) (bytes : List Byte) : Host.Outcome (Session × Reply) Fault Refusal :=
  if h.beforeCycle = false then .refused .loadTooLate
  else if imageWf bytes = false then .refused .imageTooLong
  else .next (h.setState (h.state.loadImage bytes), .done)

/-- Tick (R250): `cyclesPerUpdate` cycles are due; none at all when it is 0. -/
def Session.beginTick (h : Session) : Host.Outcome (Session × Reply) Fault Refusal :=
  if h.cyclesLeft = 0 then
    .next ({ h with cyclesLeft := h.state.config.cyclesPerUpdate, beforeTick := false }, .done)
  else .refused .tickInProgress

/-- The Tick Driver's next cycle (R250, R120), with how it ended (R236). -/
def Session.cycle (h : Session) : Host.Outcome (Session × Reply) Fault Refusal :=
  if h.cyclesLeft = 0 then .refused .noCycleDue
  else match Machine.cycle h.state with
    | .next r =>
      .next ({ state := r.1, cyclesLeft := h.cyclesLeft - 1, beforeTick := false, beforeCycle := false }, .cycle r.2)
    | .fault r => .fault r
    | .refused r => .refused r

/-- One move at the boundary (R254): the session after it and the reply, or the refusal of a move the spec does not allow
there. -/
def hostStep (op : HostOp) (h : Session) : Host.Outcome (Session × Reply) Fault Refusal :=
  match op with
  | .reset => .next (h.reset, .done)
  | .configure perUpdate perDecrement trace => h.configure perUpdate perDecrement trace
  | .loadImage bytes => h.loadImage bytes
  | .tick => h.beginTick
  | .cycle => h.cycle
  | .setKey k down => .next (h.setState (h.state.setKey k down), .done)
  | .setKeys keys => .next (h.setState (h.state.setKeys keys), .done)
  | .readFramebuffer => .next (h, .framebuffer h.state.readFramebuffer)
  | .readAndClearDirty => .next (h.setState h.state.readAndClearDirty.2, .dirty h.state.readAndClearDirty.1)
  | .readStatus => .next (h, .status h.state.readStatus)

/-- A run of the host: the moves in order, the session after them and the replies. -/
def hostRun : List HostOp → Session → Host.Outcome (Session × List Reply) Fault Refusal
  | [], h => .next (h, [])
  | op :: ops, h =>
    match hostStep op h with
    | .next r =>
      match hostRun ops r.1 with
      | .next q => .next (q.1, r.2 :: q.2)
      | .fault e => .fault e
      | .refused e => .refused e
    | .fault e => .fault e
    | .refused e => .refused e

/-- The moves of one whole tick with KEY supplied before each of its cycles (R250, R251). -/
def tickMoves (keys : List (BitVec 16)) : List HostOp := .tick :: keys.flatMap fun k => [.setKeys k, .cycle]

end Sys2Proof.Machine
end

