-- ==== Sys2Proof/Safety.lean ====
section
/-! DEFINITION. What the claims are stated in: the invariant of every run, the classes of states and cycles the spec names
(halted, hung, waiting), and what an instruction leaves unchanged. -/

namespace Sys2Proof.Machine

/-! Classes of states. -/

/-- HALT = 1: the CORE has taken a fault (R36, R121). "Never final, never a success." -/
def State.Halted (s : State) : Prop := s.halt = true

/-- Ready for a cycle: a legal configuration (R37) and not halted (R121). -/
def State.Ready (s : State) : Prop := s.config.wf = true ∧ s.halt = false

/-- The hang of R124 and R238: not halted, and the word at PC is unrecognized. -/
def State.Hung (s : State) : Prop := s.halt = false ∧ ∃ w, s.fetch = some w ∧ decodeWord w = .unrecognized

/-- Waiting for a key (R208): not halted, the word at PC is FX0A, and no key is down. -/
def State.Waiting (s : State) : Prop :=
  s.halt = false ∧ (∃ w x, s.fetch = some w ∧ decodeWord w = .recognized (.ldVxK x)) ∧ s.keys = 0

/-- The cycle from `s` takes the fault `c`, the outcome of R236 that is no ordinary step. -/
def FaultsAt (s : State) (c : Cause) : Prop := ∃ t, cycle s = .next (t, .faulted c)

/-! The invariant. -/

/-- What holds of every state a run reaches: at Reset, after every cycle, and after every operation of the host. -/
structure State.Inv (s : State) : Prop where
  /-- The configuration is legal (R7, R37). -/
  config : s.config.wf = true
  /-- MEM is in its canonical form, inside [0, 4095] (R60). -/
  mem : s.mem.wf s.config.glyphRom = true
  /-- The stack has STACK_DEPTH entries (R29). -/
  stackLength : s.stack.length = s.config.stackDepth
  /-- 0 <= SP <= STACK_DEPTH (R29). -/
  spBound : s.sp ≤ s.config.stackDepth
  /-- Every entry in use is the address of a fetched CALL (R141). -/
  entries : ∀ k r, k < s.sp → s.stack[k]? = some r → r.toNat ≤ 0x0FFE
  /-- PC is at most what JP V0,addr can write (R24, R148). -/
  pcBound : s.pc.toNat ≤ 0x10FE
  /-- 0 <= TDIV < cyclesPerTimerDecrement (R20). -/
  cadence : s.tdiv < s.config.cyclesPerTimerDecrement
  /-- No fault recorded while running (R36). -/
  running : s.halt = false → s.cause = .none ∧ s.epc = 0 ∧ s.eword = 0 ∧ s.eaddr = 0
  /-- After a fault, a cause is recorded and EPC is the PC, which points at the faulting instruction (R236). -/
  halted : s.halt = true → s.cause ≠ .none ∧ s.epc = s.pc

/-! Frames: what an instruction leaves unchanged. `s` is the state before, `t` the state after. -/

/-- Every general register outside `changed` is unchanged (R42). -/
def KeepsRegs (changed : RegNum → Prop) (s t : State) : Prop := ∀ r, ¬changed r → t.reg r = s.reg r

/-- Every byte of MEM reads as before. -/
def KeepsMem (s t : State) : Prop := ∀ a, t.readByte a = s.readByte a

/-- Every byte of MEM outside the `len` bytes at `base` reads as before. -/
def KeepsMemOutside (base len : Nat) (s t : State) : Prop :=
  ∀ a, (a < base ∨ base + len ≤ a) → t.readByte a = s.readByte a

/-- I is unchanged (R25). -/
def KeepsIndex (s t : State) : Prop := t.index = s.index

/-- The call stack is unchanged (R29). -/
def KeepsStack (s t : State) : Prop := t.sp = s.sp ∧ t.stack = s.stack

/-- The timers and the cadence counter are unchanged (R26, R27, R34). -/
def KeepsTimers (s t : State) : Prop := t.dt = s.dt ∧ t.st = s.st ∧ t.tdiv = s.tdiv

/-- The framebuffer and DIRTY are unchanged (R31, R33). -/
def KeepsScreen (s t : State) : Prop := (∀ off, t.pixel off = s.pixel off) ∧ t.dirty = s.dirty

/-- The five fault registers are unchanged (R36). -/
def KeepsFaultRegs (s t : State) : Prop :=
  t.halt = s.halt ∧ t.cause = s.cause ∧ t.epc = s.epc ∧ t.eword = s.eword ∧ t.eaddr = s.eaddr

/-- The inputs and the parameters are unchanged: KEY, the configuration (R32, R37). -/
def KeepsInputs (s t : State) : Prop := t.keys = s.keys ∧ t.config = s.config

/-- Nothing was drawn from the random source (R41). -/
def KeepsDraws (s t : State) : Prop := t.draws = s.draws

/-- Nothing was emitted (R254). -/
def KeepsSinks (s t : State) : Prop := t.emitted = s.emitted

/-- Everything a register-only instruction never touches: memory, the stack, the timers, the screen, the fault registers,
the inputs, the random source and the sinks. -/
structure KeepsOutside (s t : State) : Prop where
  mem : KeepsMem s t
  stack : KeepsStack s t
  timers : KeepsTimers s t
  screen : KeepsScreen s t
  faultRegs : KeepsFaultRegs s t
  inputs : KeepsInputs s t
  draws : KeepsDraws s t
  sinks : KeepsSinks s t

/-- The five fault registers after fault entry at `s` (R236), everything else as it was: "State not changed: everything
else". -/
structure TookFault (s t : State) (c : Cause) (word addr : Word) : Prop where
  halt : t.halt = true
  cause : t.cause = c
  epc : t.epc = s.pc
  eword : t.eword = word
  eaddr : t.eaddr = addr
  pc : t.pc = s.pc
  regs : KeepsRegs (fun _ => False) s t
  index : KeepsIndex s t
  mem : KeepsMem s t
  stack : KeepsStack s t
  timers : KeepsTimers s t
  screen : KeepsScreen s t
  inputs : KeepsInputs s t
  draws : KeepsDraws s t
  sinks : KeepsSinks s t

/-! What the claims about instructions are built from. -/

/-- The byte at `a` after LD [I],Vx at `s`: V[a - I] in the stored range, else what was there (R222). -/
def byteAfterDump (s : State) (x : RegNum) (a : Nat) : Byte :=
  if s.index.toNat ≤ a ∧ a ≤ s.index.toNat + x.toNat then s.reg (BitVec.ofNat 4 (a - s.index.toNat)) else s.readByte a

/-- The byte at `a` after LD B,Vx at `s`: a decimal digit in the stored range, else what was there (R221). -/
def byteAfterBcd (s : State) (x : RegNum) (a : Nat) : Byte :=
  if a = s.index.toNat then BitVec.ofNat 8 ((s.reg x).toNat / 100)
  else if a = s.index.toNat + 1 then BitVec.ofNat 8 ((s.reg x).toNat / 10 % 10)
  else if a = s.index.toNat + 2 then BitVec.ofNat 8 ((s.reg x).toNat % 10)
  else s.readByte a

/-- Every word that matches `(w AND mask) = match` is the instruction `f w` (R103). -/
def Encodes (mask val : Word) (f : Word → Instr) : Prop :=
  ∀ w, w &&& mask = val → decodeWord w = .recognized (f w)

/-- The sprite of `DRW Vx,Vy,N` at `s` has a set bit at framebuffer offset `off`: bit `7 - col` of the byte at `I + row`,
with `off = x + col + (y + row) x 64` in full precision (R190). -/
def SpriteCovers (s : State) (x y : RegNum) (n : BitVec 4) (off : Nat) : Prop :=
  ∃ row col, row < n.toNat ∧ col < 8 ∧ (s.readByte (s.index.toNat + row)).getLsbD (7 - col) = true ∧
    off = (s.reg x).toNat + col + ((s.reg y).toNat + row) * 64

/-- The `len` bytes from I on touch an address above 4095 (R63). -/
def TouchesOutside (s : State) (len : Nat) : Prop := 0 < len ∧ 4095 < s.index.toNat + len - 1

/-- The fault of a data access out of range (R63, R235), for the fetched word `w`. -/
def MemOobAt (i : Instr) (s : State) (w : Word) : Prop :=
  ∃ t, exec i s = .next t ∧ TookFault s t .memOob w (BitVec.ofNat 16 (max s.index.toNat 4096))

/-- The invariant of a host session (R37, R277, R254): the CORE's invariant, and a cadence counter at 0 as long as
Configure is legal. -/
structure Session.Inv (h : Session) : Prop where
  state : h.state.Inv
  beforeTick : h.beforeTick = true → h.state.tdiv = 0

end Sys2Proof.Machine
end

