-- ==== Sys2Proof/Certificates/Slice0/Obligations.lean ====
section
/-! DEFINITION. The statements for the provers. `s` is a state before, `t` after; a frame says what stays as it was. -/

open Sys2Proof Sys2Proof.Machine

/-! ## Encoding -/

/-- Decoding the encoded instruction gives it back, from the word, from its bytes with any bytes after them, and from the
opcode table's number of it. The ignored bits the encoder writes as 0 for SHR and SHL are the model's choice
(assumption 13). -/
def Obligations.DecodeEncodeRoundTrip : Prop :=
  ∀ (i : Instr) (rest : List Byte),
    decodeWord (encode i) = .recognized i ∧
    decodeBytes (bytesOfWord (encode i) ++ rest) = .ok (i, rest) ∧
    decodeTableWord 16 (encode i).toNat = some i

/-- R103: "a word w is the instruction iff (w AND mask) = match", rows disjoint, every other word unrecognized. -/
def Obligations.OpcodeMapSelectsTheInstruction : Prop :=
  (∀ w j, w &&& (opcodeRow j).1 = (opcodeRow j).2 →
    ∃ i, decodeWord w = .recognized i ∧ opcodeRow i = opcodeRow j) ∧
  (∀ w i, decodeWord w = .recognized i → w &&& (opcodeRow i).1 = (opcodeRow i).2) ∧
  (∀ w, (∀ j, w &&& (opcodeRow j).1 ≠ (opcodeRow j).2) → decodeWord w = .unrecognized)

/-- R95 to R98: the second levels of families 0, 8, E and F; R99: families 5 and 9 ignore the low nibble,
which an assembler emits as 0. -/
def Obligations.SecondLevelDispatch : Prop :=
  (∀ w, familyField w = 0x0#4 → decodeWord w =
    if w = 0x00E0#16 then .recognized .cls else if w = 0x00EE#16 then .recognized .ret else .unrecognized) ∧
  (∀ w, familyField w = 0x8#4 → decodeWord w =
    (match (nField w).toNat with
      | 0 => .recognized (.ldReg (xField w) (yField w))
      | 1 => .recognized (.orReg (xField w) (yField w))
      | 2 => .recognized (.andReg (xField w) (yField w))
      | 3 => .recognized (.xorReg (xField w) (yField w))
      | 4 => .recognized (.addReg (xField w) (yField w))
      | 5 => .recognized (.sub (xField w) (yField w))
      | 6 => .recognized (.shr (xField w))
      | 7 => .recognized (.subn (xField w) (yField w))
      | 14 => .recognized (.shl (xField w))
      | _ => .unrecognized)) ∧
  (∀ w, familyField w = 0xE#4 → decodeWord w =
    (match (nnField w).toNat with
      | 0x9E => .recognized (.skp (xField w))
      | 0xA1 => .recognized (.sknp (xField w))
      | _ => .unrecognized)) ∧
  (∀ w, familyField w = 0xF#4 → decodeWord w =
    (match (nnField w).toNat with
      | 0x07 => .recognized (.ldVxDt (xField w))
      | 0x0A => .recognized (.ldVxK (xField w))
      | 0x15 => .recognized (.ldDtVx (xField w))
      | 0x18 => .recognized (.ldStVx (xField w))
      | 0x1E => .recognized (.addIVx (xField w))
      | 0x29 => .recognized (.ldFVx (xField w))
      | 0x33 => .recognized (.ldBVx (xField w))
      | 0x55 => .recognized (.ldMemVx (xField w))
      | 0x65 => .recognized (.ldVxMem (xField w))
      | _ => .unrecognized)) ∧
  (∀ w n, familyField w = 0x5#4 ∨ familyField w = 0x9#4 →
    decodeWord (nibbles (familyField w) (xField w) (yField w) n) = decodeWord w ∧
    (familyField w = 0x5#4 → decodeWord w = .recognized (.seReg (xField w) (yField w))) ∧
    (familyField w = 0x9#4 → decodeWord w = .recognized (.sneReg (xField w) (yField w)))) ∧
  (∀ x y, nField (encode (.seReg x y)) = 0 ∧ nField (encode (.sneReg x y)) = 0)

/-- Words written out from the encodings of R103, one or two of each family (95_test_vectors.md, "Fetch and decode"). -/
def Obligations.WordsOfTheOpcodeMapDecode : Prop :=
  decodeWord 0x1234#16 = .recognized (.jp 0x234#12) ∧
  decodeWord 0x00E0#16 = .recognized .cls ∧
  decodeWord 0x00EE#16 = .recognized .ret ∧
  decodeWord 0x01E0#16 = .unrecognized ∧
  decodeWord 0x5AB7#16 = .recognized (.seReg 0xA 0xB) ∧
  decodeWord 0x602A#16 = .recognized (.ldByte 0 0x2A#8) ∧
  decodeWord 0x8AB7#16 = .recognized (.subn 0xA 0xB) ∧
  decodeWord 0x8ABE#16 = .recognized (.shl 0xA) ∧
  decodeWord 0x8ABF#16 = .unrecognized ∧
  decodeWord 0xD125#16 = .recognized (.drw 1 2 5) ∧
  decodeWord 0xE19E#16 = .recognized (.skp 1) ∧
  decodeWord 0xFA1E#16 = .recognized (.addIVx 0xA) ∧
  decodeWord 0xF165#16 = .recognized (.ldVxMem 1) ∧
  decodeWord 0xF175#16 = .unrecognized

/-! ## The cycle -/

/-- A step at a ready state whose fetched word decodes to `i` is `exec i` and then, unless it took a fault, the timer
bookkeeping and one trace record when tracing is on (R120 steps S3 to S8); no instruction is refused. The record's content
beyond what R127 requires is the model's choice (assumption 10). -/
def Obligations.StepRunsTheDecodedInstruction : Prop :=
  ∀ s w i, s.Ready → s.fetch = some w → decodeWord w = .recognized i →
    (∀ t, exec i s = .next t → t.halt = true → step s = .next t) ∧
    (∀ t, exec i s = .next t → t.halt = false →
      step s = .next (if s.config.traceEnabled then t.timerBookkeeping.emit (.trace s.pc w i)
        else t.timerBookkeeping)) ∧
    (∀ r, exec i s = .fault r → step s = .fault r) ∧
    (∀ r, exec i s ≠ .refused r)

/-- R121: "If HALT = 1 at the start of a cycle, the cycle changes no state at all", and only Reset ends the halt. -/
def Obligations.HaltedCoreDoesNothing : Prop :=
  (∀ s, s.config.wf = true → s.halt = true → step s = .next s) ∧
  (∀ op h h' r, h.state.halt = true → op ≠ .reset → hostStep op h = .next (h', r) → h'.state.halt = true) ∧
  (∀ h, ∃ h', hostStep .reset h = .next (h', .done) ∧ h'.state.halt = false)

/-- R61, R64, R122: the fetched word is big-endian at any alignment, and a PC with PC + 1 > 4095 fetches nothing. R232: the
cycle then takes FETCH_OOB with EWORD = 0 and EADDR = PC. -/
def Obligations.FetchAndItsBound : Prop :=
  (∀ s : State, s.pc.toNat + 1 ≤ 4095 → ∃ w, s.fetch = some w ∧
    w.extractLsb' 8 8 = s.readByte s.pc.toNat ∧ w.extractLsb' 0 8 = s.readByte (s.pc.toNat + 1)) ∧
  (∀ s : State, 4095 < s.pc.toNat + 1 → s.fetch = none) ∧
  (∀ s, s.Ready → 4095 < s.pc.toNat + 1 →
    ∃ t, step s = .next t ∧ TookFault s t .fetchOob 0 s.pc)

/-- R124, R253: the cycle of an unrecognized word emits one diagnostic (word, PC), whatever traceEnabled is, runs the timer
bookkeeping (which may add a sound edge), and changes nothing else; and the stall is permanent whatever KEY is before each
cycle, with one more diagnostic each cycle. That KEY comes as a list of vectors is the model's choice (assumption 12). -/
def Obligations.UnrecognizedWordStalls : Prop :=
  ∀ s w, s.Ready → s.fetch = some w → decodeWord w = .unrecognized →
    (∃ t, step s = .next t ∧ t.pc = s.pc ∧ t.fetch = some w ∧
      KeepsRegs (fun _ => False) s t ∧ KeepsIndex s t ∧ KeepsMem s t ∧ KeepsStack s t ∧ KeepsScreen s t ∧
      KeepsFaultRegs s t ∧ KeepsInputs s t ∧ KeepsDraws s t ∧
      t.dt = s.timerBookkeeping.dt ∧ t.st = s.timerBookkeeping.st ∧ t.tdiv = s.timerBookkeeping.tdiv ∧
      (t.emitted = .diagnostic w s.pc :: s.emitted ∨
        t.emitted = .soundEdge :: .diagnostic w s.pc :: s.emitted ∧ s.st ≠ 0 ∧ t.st = 0)) ∧
    (∀ (n : Nat) (keys : List (BitVec 16)), ∃ u, runCycles n keys s = .next u ∧ u.Ready ∧ u.Hung ∧ u.pc = s.pc ∧
      u.fetch = some w ∧ KeepsRegs (fun _ => False) s u ∧ KeepsIndex s u ∧ KeepsMem s u ∧ KeepsStack s u ∧
      KeepsScreen s u ∧ KeepsFaultRegs s u ∧ u.config = s.config ∧ (keys = [] → u.keys = s.keys) ∧ KeepsDraws s u ∧
      u.emitted.count (.diagnostic w s.pc) = s.emitted.count (.diagnostic w s.pc) + n)

/-- R244: what TimerBookkeeping does to TDIV, DT and ST, saturating at 0, and to nothing else; every cycle counts that takes
no fault, and a faulting cycle leaves all three. -/
def Obligations.TimerBookkeepingCountsDown : Prop :=
  (∀ s t, s.Ready → step s = .next t → t.halt = false →
    t.tdiv = if s.config.cyclesPerTimerDecrement ≤ s.tdiv + 1 then 0 else s.tdiv + 1) ∧
  (∀ s t, s.Ready → step s = .next t → t.halt = true → KeepsTimers s t) ∧
  ∀ s : State,
    (s.tdiv + 1 < s.config.cyclesPerTimerDecrement →
      s.timerBookkeeping.tdiv = s.tdiv + 1 ∧ s.timerBookkeeping.dt = s.dt ∧ s.timerBookkeeping.st = s.st ∧
        KeepsSinks s s.timerBookkeeping) ∧
    (s.config.cyclesPerTimerDecrement ≤ s.tdiv + 1 →
      s.timerBookkeeping.tdiv = 0 ∧
      s.timerBookkeeping.dt.toNat = s.dt.toNat - 1 ∧
      s.timerBookkeeping.st.toNat = s.st.toNat - 1 ∧
      s.timerBookkeeping.emitted = if s.st = 1 then .soundEdge :: s.emitted else s.emitted) ∧
    s.timerBookkeeping.pc = s.pc ∧ KeepsRegs (fun _ => False) s s.timerBookkeeping ∧
    KeepsIndex s s.timerBookkeeping ∧ KeepsMem s s.timerBookkeeping ∧ KeepsStack s s.timerBookkeeping ∧
    KeepsScreen s s.timerBookkeeping ∧ KeepsFaultRegs s s.timerBookkeeping ∧ KeepsInputs s s.timerBookkeeping ∧
    KeepsDraws s s.timerBookkeeping

/-- R246: the sound edge is emitted by exactly two updates of ST, LD ST writing 0 over non-zero and the decrement from 1
to 0; no other instruction and no Reset emits anything; a cycle of LD ST emits at most one. -/
def Obligations.SoundEdgesOfTheCore : Prop :=
  (∀ (x : RegNum) (s : State), ∃ t, exec (.ldStVx x) s = .next t ∧
    t.emitted = if s.st ≠ 0 ∧ s.reg x = 0 then .soundEdge :: s.emitted else s.emitted) ∧
  (∀ s : State, s.timerBookkeeping.emitted =
    if s.config.cyclesPerTimerDecrement ≤ s.tdiv + 1 ∧ s.st = 1 then .soundEdge :: s.emitted else s.emitted) ∧
  (∀ i s t, (∀ x, i ≠ .ldStVx x) → exec i s = .next t → KeepsSinks s t) ∧
  (∀ s : State, KeepsSinks s s.hostReset) ∧
  (∀ (x : RegNum) (s : State) (w : Word), s.Ready → s.fetch = some w → decodeWord w = .recognized (.ldStVx x) →
    ∃ t, step s = .next t ∧ t.emitted.count .soundEdge = s.emitted.count .soundEdge +
      if (s.st ≠ 0 ∧ s.reg x = 0) ∨ (s.reg x = 1 ∧ s.config.cyclesPerTimerDecrement ≤ s.tdiv + 1) then 1 else 0)

/-- R230, R236: a cycle that ends halted from a ready state has changed nothing but the five fault registers; EPC is the
PC of the faulting instruction, EWORD the word fetched, or 0 if none was, and a cause is recorded. Its outcome is the fault
outcome with that cause, and a cycle has that outcome only so: `cycle` tells a fault, a stall and a halted CORE from a
completed instruction. That `step` answers the state alone is the model's choice (assumption 1). -/
def Obligations.FaultsArePrecise : Prop :=
  (∀ s t, s.Ready → step s = .next t → t.halt = true →
    TookFault s t t.cause (s.fetch.getD 0) t.eaddr ∧ t.cause ≠ .none ∧ cycle s = .next (t, .faulted t.cause)) ∧
  (∀ s t e, cycle s = .next (t, e) → step s = .next t ∧
    (e = .halted ↔ s.halt = true) ∧
    ((∃ c, e = .faulted c) ↔ s.halt = false ∧ t.halt = true) ∧
    (∀ c, e = .faulted c → t.cause = c) ∧
    (e = .stalled ↔ s.Hung))

/-- R231, R239: which ready states take a fault, with which cause code and EADDR; every other cycle ends not halted. -/
def Obligations.FaultCausesAndTheirOrder : Prop :=
  (Cause.none.code = 0#3 ∧ Cause.fetchOob.code = 1#3 ∧ Cause.stackUnderflow.code = 2#3 ∧
    Cause.stackOverflow.code = 3#3 ∧ Cause.memOob.code = 4#3 ∧ Cause.keyOob.code = 5#3) ∧
  ∀ s t, s.Ready → step s = .next t → t.halt = true →
    (s.fetch = none ∧ t.cause = .fetchOob ∧ t.eaddr = s.pc) ∨
    ∃ w i, s.fetch = some w ∧ decodeWord w = .recognized i ∧
      ((i = .ret ∧ s.sp = 0 ∧ t.cause = .stackUnderflow ∧ t.eaddr = 0) ∨
       ((∃ nnn, i = .call nnn) ∧ s.sp = s.config.stackDepth ∧ t.cause = .stackOverflow ∧ t.eaddr = 0) ∨
       (((∃ x y n, i = .drw x y n ∧ TouchesOutside s n.toNat) ∨ (∃ x, i = .ldBVx x ∧ TouchesOutside s 3) ∨
          (∃ x, i = .ldMemVx x ∧ TouchesOutside s (x.toNat + 1)) ∨
          (∃ x, i = .ldVxMem x ∧ TouchesOutside s (x.toNat + 1))) ∧
         t.cause = .memOob ∧ t.eaddr = BitVec.ofNat 16 (max s.index.toNat 4096)) ∨
       (∃ x, (i = .skp x ∨ i = .sknp x) ∧ 15 < (s.reg x).toNat ∧ t.cause = .keyOob ∧
         t.eaddr = (s.reg x).setWidth 16))

/-! ## Invariants -/

/-- Every cycle keeps the invariant. -/
def Obligations.StepKeepsTheInvariant : Prop := ∀ s t, s.Inv → step s = .next t → t.Inv

/-- The reset state has the invariant. -/
def Obligations.ResetHasTheInvariant : Prop := State.reset.Inv

/-- Every move at the boundary, between ticks and between the cycles of one, keeps the session's invariant; the protocol is
the model's (assumption 11). -/
def Obligations.HostOperationsKeepTheInvariant : Prop :=
  ∀ op h h' r, h.Inv → hostStep op h = .next (h', r) → h'.Inv

/-- From a state with the invariant every step answers a next state: it neither stops nor is refused. The next state may be
that of a cycle that completed an instruction, stalled, took a fault or found the CORE halted; that a cycle which takes a
fault answers a next state is the model's choice (assumption 1), and the states on which CALL and RET stop by the model's
choice (assumption 9) are those the invariant rules out. -/
def Obligations.EveryCycleAnswers : Prop := ∀ s, s.Inv → ∃ t, step s = .next t

/-- Two memories in canonical form that read alike are the same data. -/
def Obligations.EqualMemoriesAreEqualData : Prop :=
  ∀ (rom : Vector Byte 80) (m m' : Memory), m.wf rom = true → m'.wf rom = true →
    (∀ a, a < 4096 → m.read rom a = m'.read rom a) → m = m'

/-! ## Control flow -/

/-- R140: CLS. -/
def Obligations.ClearScreenZeroesTheFramebuffer : Prop :=
  Encodes 0xFFFF#16 0x00E0#16 (fun _ => .cls) ∧
  ∀ s, ∃ t, exec .cls s = .next t ∧ (∀ off, off < 2048 → t.pixel off = false) ∧ t.dirty = true ∧
    t.pc = s.pc + 2 ∧ KeepsRegs (fun _ => False) s t ∧ KeepsIndex s t ∧ KeepsMem s t ∧ KeepsStack s t ∧
    KeepsTimers s t ∧ KeepsFaultRegs s t ∧ KeepsInputs s t ∧ KeepsDraws s t ∧ KeepsSinks s t

/-- R141, R233: RET pops the call site and resumes 2 after it, the popped entry kept in place; on an empty stack it takes
STACK_UNDERFLOW. -/
def Obligations.ReturnPopsTheCallSite : Prop :=
  Encodes 0xFFFF#16 0x00EE#16 (fun _ => .ret) ∧
  (∀ (s : State) (r : Word), 0 < s.sp → s.stack[s.sp - 1]? = some r →
    ∃ t, exec .ret s = .next t ∧ t.pc = r + 2 ∧ t.sp = s.sp - 1 ∧ t.stack = s.stack ∧
      KeepsRegs (fun _ => False) s t ∧ KeepsIndex s t ∧ KeepsMem s t ∧ KeepsTimers s t ∧ KeepsScreen s t ∧
      KeepsFaultRegs s t ∧ KeepsInputs s t ∧ KeepsDraws s t ∧ KeepsSinks s t) ∧
  (∀ s : State, s.sp = 0 → s.fetch = some 0x00EE#16 →
    ∃ t, exec .ret s = .next t ∧ TookFault s t .stackUnderflow 0x00EE#16 0)

/-- R143, R234: CALL pushes its own address, not the next one, and jumps; on a full stack it takes STACK_OVERFLOW. -/
def Obligations.CallPushesItsOwnAddress : Prop :=
  Encodes 0xF000#16 0x2000#16 (fun w => .call (nnnField w)) ∧
  (∀ (nnn : BitVec 12) (s : State), s.sp < s.config.stackDepth → s.stack.length = s.config.stackDepth →
    ∃ t, exec (.call nnn) s = .next t ∧ t.pc.toNat = nnn.toNat ∧ t.sp = s.sp + 1 ∧
      t.stack[s.sp]? = some s.pc ∧ (∀ k, k ≠ s.sp → t.stack[k]? = s.stack[k]?) ∧
      KeepsRegs (fun _ => False) s t ∧ KeepsIndex s t ∧ KeepsMem s t ∧ KeepsTimers s t ∧ KeepsScreen s t ∧
      KeepsFaultRegs s t ∧ KeepsInputs s t ∧ KeepsDraws s t ∧ KeepsSinks s t) ∧
  (∀ (nnn : BitVec 12) (s : State) (w : Word), s.sp = s.config.stackDepth → s.fetch = some w →
    ∃ t, exec (.call nnn) s = .next t ∧ TookFault s t .stackOverflow w 0)

/-- CALL and RET whose SP names no entry of the stack stop with `noStackEntry`: the model's choice, for states that no run
reaches (assumption 9). -/
def Obligations.StackIndexOutsideTheStackStops : Prop :=
  (∀ s : State, s.sp ≠ 0 → s.stack[s.sp - 1]? = none → exec .ret s = .fault .noStackEntry) ∧
  (∀ (nnn : BitVec 12) (s : State), s.sp ≠ s.config.stackDepth → s.stack.length ≤ s.sp →
    exec (.call nnn) s = .fault .noStackEntry)

/-- R142, R148: JP writes NNN to PC; JP V0 writes V0 + NNN, neither reduced nor masked. -/
def Obligations.JumpsWriteThePc : Prop :=
  Encodes 0xF000#16 0x1000#16 (fun w => .jp (nnnField w)) ∧
  Encodes 0xF000#16 0xB000#16 (fun w => .jpV0 (nnnField w)) ∧
  (∀ (nnn : BitVec 12) (s : State), ∃ t, exec (.jp nnn) s = .next t ∧ t.pc.toNat = nnn.toNat ∧
    KeepsRegs (fun _ => False) s t ∧ KeepsIndex s t ∧ KeepsOutside s t) ∧
  (∀ (nnn : BitVec 12) (s : State), ∃ t, exec (.jpV0 nnn) s = .next t ∧
    t.pc.toNat = (s.reg 0).toNat + nnn.toNat ∧
    KeepsRegs (fun _ => False) s t ∧ KeepsIndex s t ∧ KeepsOutside s t)

/-- R144, R145: the skips on an immediate. -/
def Obligations.SkipsOnAnImmediate : Prop :=
  Encodes 0xF000#16 0x3000#16 (fun w => .seByte (xField w) (nnField w)) ∧
  Encodes 0xF000#16 0x4000#16 (fun w => .sneByte (xField w) (nnField w)) ∧
  (∀ (x : RegNum) (nn : Byte) (s : State), ∃ t, exec (.seByte x nn) s = .next t ∧
    (s.reg x = nn → t.pc = s.pc + 4) ∧ (s.reg x ≠ nn → t.pc = s.pc + 2) ∧
    KeepsRegs (fun _ => False) s t ∧ KeepsIndex s t ∧ KeepsOutside s t) ∧
  (∀ (x : RegNum) (nn : Byte) (s : State), ∃ t, exec (.sneByte x nn) s = .next t ∧
    (s.reg x ≠ nn → t.pc = s.pc + 4) ∧ (s.reg x = nn → t.pc = s.pc + 2) ∧
    KeepsRegs (fun _ => False) s t ∧ KeepsIndex s t ∧ KeepsOutside s t)

/-- R146, R147: the skips on two registers, the low nibble of the word ignored. -/
def Obligations.SkipsOnTwoRegisters : Prop :=
  Encodes 0xF000#16 0x5000#16 (fun w => .seReg (xField w) (yField w)) ∧
  Encodes 0xF000#16 0x9000#16 (fun w => .sneReg (xField w) (yField w)) ∧
  (∀ (x y : RegNum) (s : State), ∃ t, exec (.seReg x y) s = .next t ∧
    (s.reg x = s.reg y → t.pc = s.pc + 4) ∧ (s.reg x ≠ s.reg y → t.pc = s.pc + 2) ∧
    KeepsRegs (fun _ => False) s t ∧ KeepsIndex s t ∧ KeepsOutside s t) ∧
  (∀ (x y : RegNum) (s : State), ∃ t, exec (.sneReg x y) s = .next t ∧
    (s.reg x ≠ s.reg y → t.pc = s.pc + 4) ∧ (s.reg x = s.reg y → t.pc = s.pc + 2) ∧
    KeepsRegs (fun _ => False) s t ∧ KeepsIndex s t ∧ KeepsOutside s t)

/-- A matched call and return comes back 2 after the call site with the stack at its old depth (95_test_vectors.md E4). -/
def Obligations.CallThenReturnResumes : Prop :=
  ∀ (nnn : BitVec 12) (s : State), s.sp < s.config.stackDepth → s.stack.length = s.config.stackDepth →
    ∃ t u, exec (.call nnn) s = .next t ∧ exec .ret t = .next u ∧ u.pc = s.pc + 2 ∧ u.sp = s.sp ∧
      u.stack[s.sp]? = some s.pc

/-- R24: how every instruction leaves PC, and that a fault and an unrecognized word leave it. -/
def Obligations.PcAfterEachInstruction : Prop :=
  (∀ i s t, exec i s = .next t → s.halt = false → t.halt = true → t.pc = s.pc) ∧
  (∀ i s t, exec i s = .next t → s.halt = false → t.halt = false →
    match i with
    | .jp nnn => t.pc.toNat = nnn.toNat
    | .call nnn => t.pc.toNat = nnn.toNat
    | .jpV0 nnn => t.pc.toNat = (s.reg 0).toNat + nnn.toNat
    | .ret => ∃ r, s.stack[s.sp - 1]? = some r ∧ t.pc = r + 2
    | .seByte x nn => t.pc = if s.reg x = nn then s.pc + 4 else s.pc + 2
    | .sneByte x nn => t.pc = if s.reg x = nn then s.pc + 2 else s.pc + 4
    | .seReg x y => t.pc = if s.reg x = s.reg y then s.pc + 4 else s.pc + 2
    | .sneReg x y => t.pc = if s.reg x = s.reg y then s.pc + 2 else s.pc + 4
    | .skp x => t.pc = if s.keyDown (s.reg x).toNat then s.pc + 4 else s.pc + 2
    | .sknp x => t.pc = if s.keyDown (s.reg x).toNat then s.pc + 2 else s.pc + 4
    | .ldVxK _ => t.pc = if s.keys = 0 then s.pc else s.pc + 2
    | _ => t.pc = s.pc + 2) ∧
  (∀ s w t, s.Ready → s.fetch = some w → decodeWord w = .unrecognized → step s = .next t → t.pc = s.pc)

/-! ## Arithmetic and logic -/

/-- R161, R162: LD Vx,byte and ADD Vx,byte; VF is written only as the destination. -/
def Obligations.ImmediateLoadAndAdd : Prop :=
  Encodes 0xF000#16 0x6000#16 (fun w => .ldByte (xField w) (nnField w)) ∧
  Encodes 0xF000#16 0x7000#16 (fun w => .addByte (xField w) (nnField w)) ∧
  (∀ (x : RegNum) (nn : Byte) (s : State), ∃ t, exec (.ldByte x nn) s = .next t ∧ t.reg x = nn ∧
    t.pc = s.pc + 2 ∧ KeepsRegs (· = x) s t ∧ KeepsIndex s t ∧ KeepsOutside s t) ∧
  (∀ (x : RegNum) (nn : Byte) (s : State), ∃ t, exec (.addByte x nn) s = .next t ∧
    (t.reg x).toNat = ((s.reg x).toNat + nn.toNat) % 256 ∧
    t.pc = s.pc + 2 ∧ KeepsRegs (· = x) s t ∧ KeepsIndex s t ∧ KeepsOutside s t)

/-- R163 to R166: assign, OR, AND, XOR; VF is written only as the destination. -/
def Obligations.AssignAndBitwise : Prop :=
  (Encodes 0xF00F#16 0x8000#16 (fun w => .ldReg (xField w) (yField w)) ∧
    Encodes 0xF00F#16 0x8001#16 (fun w => .orReg (xField w) (yField w)) ∧
    Encodes 0xF00F#16 0x8002#16 (fun w => .andReg (xField w) (yField w)) ∧
    Encodes 0xF00F#16 0x8003#16 (fun w => .xorReg (xField w) (yField w))) ∧
  ∀ (x y : RegNum) (s : State),
    (∃ t, exec (.ldReg x y) s = .next t ∧ t.reg x = s.reg y ∧ t.pc = s.pc + 2 ∧
      KeepsRegs (· = x) s t ∧ KeepsIndex s t ∧ KeepsOutside s t) ∧
    (∃ t, exec (.orReg x y) s = .next t ∧
      (∀ k, (t.reg x).getLsbD k = ((s.reg x).getLsbD k || (s.reg y).getLsbD k)) ∧ t.pc = s.pc + 2 ∧
      KeepsRegs (· = x) s t ∧ KeepsIndex s t ∧ KeepsOutside s t) ∧
    (∃ t, exec (.andReg x y) s = .next t ∧
      (∀ k, (t.reg x).getLsbD k = ((s.reg x).getLsbD k && (s.reg y).getLsbD k)) ∧ t.pc = s.pc + 2 ∧
      KeepsRegs (· = x) s t ∧ KeepsIndex s t ∧ KeepsOutside s t) ∧
    (∃ t, exec (.xorReg x y) s = .next t ∧
      (∀ k, (t.reg x).getLsbD k = ((s.reg x).getLsbD k ^^ (s.reg y).getLsbD k)) ∧ t.pc = s.pc + 2 ∧
      KeepsRegs (· = x) s t ∧ KeepsIndex s t ∧ KeepsOutside s t)

/-- R160, R167 to R171: the five flag-writing instructions. Result and flag are computed from the old registers (Y = 15 the
old VF among them); the flag is in VF unless X = 15, where the result is. -/
def Obligations.FlagWritingArithmetic : Prop :=
  (Encodes 0xF00F#16 0x8004#16 (fun w => .addReg (xField w) (yField w)) ∧
    Encodes 0xF00F#16 0x8005#16 (fun w => .sub (xField w) (yField w)) ∧
    Encodes 0xF00F#16 0x8006#16 (fun w => .shr (xField w)) ∧
    Encodes 0xF00F#16 0x8007#16 (fun w => .subn (xField w) (yField w)) ∧
    Encodes 0xF00F#16 0x800E#16 (fun w => .shl (xField w))) ∧
  ∀ (x y : RegNum) (s : State),
    (∃ t, exec (.addReg x y) s = .next t ∧
      (t.reg x).toNat = ((s.reg x).toNat + (s.reg y).toNat) % 256 ∧
      (x ≠ 15 → t.reg 15 = if (s.reg x).toNat + (s.reg y).toNat > 255 then 1 else 0) ∧
      t.pc = s.pc + 2 ∧ KeepsRegs (fun r => r = x ∨ r = 15) s t ∧ KeepsIndex s t ∧ KeepsOutside s t) ∧
    (∃ t, exec (.sub x y) s = .next t ∧
      (t.reg x).toNat = ((s.reg x).toNat + 256 - (s.reg y).toNat) % 256 ∧
      (x ≠ 15 → t.reg 15 = if (s.reg x).toNat < (s.reg y).toNat then 0 else 1) ∧
      t.pc = s.pc + 2 ∧ KeepsRegs (fun r => r = x ∨ r = 15) s t ∧ KeepsIndex s t ∧ KeepsOutside s t) ∧
    (∃ t, exec (.subn x y) s = .next t ∧
      (t.reg x).toNat = ((s.reg y).toNat + 256 - (s.reg x).toNat) % 256 ∧
      (x ≠ 15 → t.reg 15 = if (s.reg y).toNat < (s.reg x).toNat then 0 else 1) ∧
      t.pc = s.pc + 2 ∧ KeepsRegs (fun r => r = x ∨ r = 15) s t ∧ KeepsIndex s t ∧ KeepsOutside s t) ∧
    (∃ t, exec (.shr x) s = .next t ∧
      (t.reg x).toNat = (s.reg x).toNat / 2 ∧
      (x ≠ 15 → (t.reg 15).toNat = (s.reg x).toNat % 2) ∧
      t.pc = s.pc + 2 ∧ KeepsRegs (fun r => r = x ∨ r = 15) s t ∧ KeepsIndex s t ∧ KeepsOutside s t) ∧
    (∃ t, exec (.shl x) s = .next t ∧
      (t.reg x).toNat = (s.reg x).toNat * 2 % 256 ∧
      (x ≠ 15 → t.reg 15 = if 128 ≤ (s.reg x).toNat then 0x80 else 0x00) ∧
      t.pc = s.pc + 2 ∧ KeepsRegs (fun r => r = x ∨ r = 15) s t ∧ KeepsIndex s t ∧ KeepsOutside s t)

/-- R172: RND masks a draw, whatever the draw is, and uses it up; the result is a submask of NN.
The counter that names the draw is the model's own (assumption 2). -/
def Obligations.RandomIsAMaskedDraw : Prop :=
  Encodes 0xF000#16 0xC000#16 (fun w => .rnd (xField w) (nnField w)) ∧
  ∀ (x : RegNum) (nn : Byte) (s : State), ∃ t, exec (.rnd x nn) s = .next t ∧
    t.reg x = nn &&& Config.randomByte s.draws ∧ t.reg x &&& ~~~nn = 0 ∧ t.draws = s.draws + 1 ∧
    t.pc = s.pc + 2 ∧ KeepsRegs (· = x) s t ∧ KeepsIndex s t ∧ KeepsMem s t ∧ KeepsStack s t ∧ KeepsTimers s t ∧
    KeepsScreen s t ∧ KeepsFaultRegs s t ∧ KeepsInputs s t ∧ KeepsSinks s t

/-- Only RND reads or advances the draws: every other instruction does the same whatever was drawn before (R129). -/
def Obligations.OnlyRandomReadsTheDraws : Prop :=
  ∀ i s t (d : Nat), (∀ x nn, i ≠ .rnd x nn) → exec i s = .next t →
    t.draws = s.draws ∧ exec i { s with draws := d } = .next { t with draws := d }

/-! ## Graphics -/

/-- R190, R258: DRW flips exactly the covered cells inside the framebuffer, VF is 1 exactly if a covered cell was set, DIRTY
is set, coordinates and sprite bytes are those before the write of VF; out of range it takes MEM_OOB. -/
def Obligations.DrawFlipsTheCoveredCells : Prop :=
  Encodes 0xF000#16 0xD000#16 (fun w => .drw (xField w) (yField w) (nField w)) ∧
  (∀ (x y : RegNum) (n : BitVec 4) (s : State), ¬TouchesOutside s n.toNat →
    ∃ t, exec (.drw x y n) s = .next t ∧
      (∀ off, off < 2048 → (SpriteCovers s x y n off → t.pixel off = !s.pixel off) ∧
        (¬SpriteCovers s x y n off → t.pixel off = s.pixel off)) ∧
      ((∃ off, off < 2048 ∧ SpriteCovers s x y n off ∧ s.pixel off = true) → t.reg 15 = 1) ∧
      ((¬∃ off, off < 2048 ∧ SpriteCovers s x y n off ∧ s.pixel off = true) → t.reg 15 = 0) ∧
      t.dirty = true ∧ t.pc = s.pc + 2 ∧ KeepsRegs (· = 15) s t ∧ KeepsIndex s t ∧ KeepsMem s t ∧ KeepsStack s t ∧
      KeepsTimers s t ∧ KeepsFaultRegs s t ∧ KeepsInputs s t ∧ KeepsDraws s t ∧ KeepsSinks s t) ∧
  (∀ (x y : RegNum) (n : BitVec 4) (s : State) (w : Word), TouchesOutside s n.toNat → s.fetch = some w →
    MemOobAt (.drw x y n) s w)

/-- Drawing twice at one origin restores every cell, the second draw collides exactly if a set bit fell inside, and a sprite
with no set bit inside the framebuffer (an all-zero one and y at or below row 32 among them) changes no cell and clears VF
(43_graphics.md section on R191 and R192). -/
def Obligations.DrawTwiceRestores : Prop :=
  (∀ (x y : RegNum) (n : BitVec 4) (s : State), x ≠ 15 → y ≠ 15 → ¬TouchesOutside s n.toNat →
    ∃ t u, exec (.drw x y n) s = .next t ∧ exec (.drw x y n) t = .next u ∧
      (∀ off, off < 2048 → u.pixel off = s.pixel off) ∧
      ((∀ off, off < 2048 → SpriteCovers s x y n off → s.pixel off = false) →
        t.reg 15 = 0 ∧ ((∃ off, off < 2048 ∧ SpriteCovers s x y n off) → u.reg 15 = 1))) ∧
  (∀ (x y : RegNum) (n : BitVec 4) (s : State), ¬TouchesOutside s n.toNat →
    ((∀ off, off < 2048 → ¬SpriteCovers s x y n off) ∨
      (∀ k, k < n.toNat → s.readByte (s.index.toNat + k) = 0) ∨ 32 ≤ (s.reg y).toNat) →
    ∃ t, exec (.drw x y n) s = .next t ∧ (∀ off, off < 2048 → t.pixel off = s.pixel off) ∧ t.reg 15 = 0 ∧
      t.dirty = true)

/-! ## Timers and keypad -/

/-- R200: LD Vx,DT reads DT before the bookkeeping of its own cycle. -/
def Obligations.ReadDelayTimer : Prop :=
  Encodes 0xF0FF#16 0xF007#16 (fun w => .ldVxDt (xField w)) ∧
  (∀ (x : RegNum) (s : State), ∃ t, exec (.ldVxDt x) s = .next t ∧ t.reg x = s.dt ∧ t.pc = s.pc + 2 ∧
    KeepsRegs (· = x) s t ∧ KeepsIndex s t ∧ KeepsOutside s t) ∧
  (∀ (x : RegNum) (s : State) (w : Word), s.Ready → s.fetch = some w → decodeWord w = .recognized (.ldVxDt x) →
    ∃ t, step s = .next t ∧ t.reg x = s.dt)

/-- R201: LD DT,Vx; TDIV is not reset, and a decrement due in the same cycle acts on the written value. -/
def Obligations.SetDelayTimer : Prop :=
  Encodes 0xF0FF#16 0xF015#16 (fun w => .ldDtVx (xField w)) ∧
  (∀ (x : RegNum) (s : State), ∃ t, exec (.ldDtVx x) s = .next t ∧ t.dt = s.reg x ∧ t.st = s.st ∧ t.tdiv = s.tdiv ∧
    t.pc = s.pc + 2 ∧ KeepsRegs (fun _ => False) s t ∧ KeepsIndex s t ∧ KeepsMem s t ∧ KeepsStack s t ∧
    KeepsScreen s t ∧ KeepsFaultRegs s t ∧ KeepsInputs s t ∧ KeepsDraws s t ∧ KeepsSinks s t) ∧
  (∀ (x : RegNum) (s : State) (w : Word), s.Ready → s.fetch = some w → decodeWord w = .recognized (.ldDtVx x) →
    ∃ t, step s = .next t ∧
      (s.tdiv + 1 < s.config.cyclesPerTimerDecrement → t.dt = s.reg x ∧ t.tdiv = s.tdiv + 1) ∧
      (s.config.cyclesPerTimerDecrement ≤ s.tdiv + 1 → t.dt.toNat = (s.reg x).toNat - 1 ∧ t.tdiv = 0))

/-- R202: LD ST,Vx, with a sound edge exactly when it writes 0 over non-zero. -/
def Obligations.SetSoundTimer : Prop :=
  Encodes 0xF0FF#16 0xF018#16 (fun w => .ldStVx (xField w)) ∧
  (∀ (x : RegNum) (s : State), ∃ t, exec (.ldStVx x) s = .next t ∧ t.st = s.reg x ∧ t.dt = s.dt ∧ t.tdiv = s.tdiv ∧
    (s.st ≠ 0 ∧ s.reg x = 0 → t.emitted = .soundEdge :: s.emitted) ∧
    (¬(s.st ≠ 0 ∧ s.reg x = 0) → t.emitted = s.emitted) ∧
    t.pc = s.pc + 2 ∧ KeepsRegs (fun _ => False) s t ∧ KeepsIndex s t ∧ KeepsMem s t ∧ KeepsStack s t ∧
    KeepsScreen s t ∧ KeepsFaultRegs s t ∧ KeepsInputs s t ∧ KeepsDraws s t) ∧
  (∀ (x : RegNum) (s : State) (w : Word), s.Ready → s.fetch = some w → decodeWord w = .recognized (.ldStVx x) →
    ∃ t, step s = .next t ∧
      (s.tdiv + 1 < s.config.cyclesPerTimerDecrement → t.st = s.reg x ∧ t.tdiv = s.tdiv + 1) ∧
      (s.config.cyclesPerTimerDecrement ≤ s.tdiv + 1 → t.st.toNat = (s.reg x).toNat - 1 ∧ t.tdiv = 0))

/-- R203: ADD I,Vx keeps 16 bits of the sum and takes the flag from the unreduced sum; X = 15 adds the old VF. -/
def Obligations.AddToIndex : Prop :=
  Encodes 0xF0FF#16 0xF01E#16 (fun w => .addIVx (xField w)) ∧
  ∀ (x : RegNum) (s : State), ∃ t, exec (.addIVx x) s = .next t ∧
    t.index.toNat = (s.index.toNat + (s.reg x).toNat) % 65536 ∧
    t.reg 15 = (if s.index.toNat + (s.reg x).toNat > 0x0FFF then 1 else 0) ∧
    t.pc = s.pc + 2 ∧ KeepsRegs (· = 15) s t ∧ KeepsOutside s t

/-- R204, R220: LD F,Vx multiplies by 5 with no masking, LD I,addr loads the address. -/
def Obligations.LoadIndex : Prop :=
  Encodes 0xF0FF#16 0xF029#16 (fun w => .ldFVx (xField w)) ∧
  Encodes 0xF000#16 0xA000#16 (fun w => .ldI (nnnField w)) ∧
  (∀ (x : RegNum) (s : State), ∃ t, exec (.ldFVx x) s = .next t ∧ t.index.toNat = (s.reg x).toNat * 5 ∧
    t.pc = s.pc + 2 ∧ KeepsRegs (fun _ => False) s t ∧ KeepsOutside s t) ∧
  (∀ (nnn : BitVec 12) (s : State), ∃ t, exec (.ldI nnn) s = .next t ∧ t.index.toNat = nnn.toNat ∧
    t.pc = s.pc + 2 ∧ KeepsRegs (fun _ => False) s t ∧ KeepsOutside s t)

/-- R205, R206, R237: the key skips test the level of KEY[V[X]]; an index above 15 takes KEY_OOB, which
LD Vx,K and LD F,Vx never take. -/
def Obligations.SkipsOnAKey : Prop :=
  Encodes 0xF0FF#16 0xE09E#16 (fun w => .skp (xField w)) ∧
  Encodes 0xF0FF#16 0xE0A1#16 (fun w => .sknp (xField w)) ∧
  (∀ (x : RegNum) (s : State), (s.reg x).toNat ≤ 15 →
    (∃ t, exec (.skp x) s = .next t ∧
      (s.keyDown (s.reg x).toNat = true → t.pc = s.pc + 4) ∧ (s.keyDown (s.reg x).toNat = false → t.pc = s.pc + 2) ∧
      KeepsRegs (fun _ => False) s t ∧ KeepsIndex s t ∧ KeepsOutside s t) ∧
    (∃ t, exec (.sknp x) s = .next t ∧
      (s.keyDown (s.reg x).toNat = false → t.pc = s.pc + 4) ∧ (s.keyDown (s.reg x).toNat = true → t.pc = s.pc + 2) ∧
      KeepsRegs (fun _ => False) s t ∧ KeepsIndex s t ∧ KeepsOutside s t)) ∧
  (∀ (x : RegNum) (s : State) (w : Word), 15 < (s.reg x).toNat → s.fetch = some w →
    (∃ t, exec (.skp x) s = .next t ∧ TookFault s t .keyOob w ((s.reg x).setWidth 16)) ∧
    (∃ t, exec (.sknp x) s = .next t ∧ TookFault s t .keyOob w ((s.reg x).setWidth 16))) ∧
  (∀ (x : RegNum) (s t : State), exec (.ldVxK x) s = .next t ∨ exec (.ldFVx x) s = .next t → KeepsFaultRegs s t)

/-- R207: LD Vx,K takes the least pressed key; with none pressed nothing changes, PC included, and
its cycle is a full one: the timers go on and the next cycle waits again. -/
def Obligations.WaitForKey : Prop :=
  Encodes 0xF0FF#16 0xF00A#16 (fun w => .ldVxK (xField w)) ∧
  (∀ (x : RegNum) (s : State) (k : Nat), k < 16 → s.keyDown k = true → (∀ j, j < k → s.keyDown j = false) →
    ∃ t, exec (.ldVxK x) s = .next t ∧ (t.reg x).toNat = k ∧ t.pc = s.pc + 2 ∧
      KeepsRegs (· = x) s t ∧ KeepsIndex s t ∧ KeepsOutside s t) ∧
  (∀ (x : RegNum) (s : State), (∀ j, j < 16 → s.keyDown j = false) → exec (.ldVxK x) s = .next s) ∧
  (∀ s, s.config.wf = true → s.Waiting → ∃ t, step s = .next t ∧ t.Waiting ∧ t.pc = s.pc ∧
    KeepsRegs (fun _ => False) s t ∧ KeepsMem s t ∧ t.dt = s.timerBookkeeping.dt ∧ t.st = s.timerBookkeeping.st ∧
    t.tdiv = s.timerBookkeeping.tdiv)

/-! ## Memory -/

/-- R221: LD B,Vx stores the three decimal digits at I, I + 1, I + 2, or takes MEM_OOB. -/
def Obligations.StoreDecimalDigits : Prop :=
  Encodes 0xF0FF#16 0xF033#16 (fun w => .ldBVx (xField w)) ∧
  (∀ (x : RegNum) (s : State), s.index.toNat + 2 ≤ 4095 →
    ∃ t, exec (.ldBVx x) s = .next t ∧
      (t.readByte s.index.toNat).toNat = (s.reg x).toNat / 100 ∧
      (t.readByte (s.index.toNat + 1)).toNat = (s.reg x).toNat / 10 % 10 ∧
      (t.readByte (s.index.toNat + 2)).toNat = (s.reg x).toNat % 10 ∧
      KeepsMemOutside s.index.toNat 3 s t ∧ t.pc = s.pc + 2 ∧ KeepsRegs (fun _ => False) s t ∧ KeepsIndex s t ∧
      KeepsStack s t ∧ KeepsTimers s t ∧ KeepsScreen s t ∧ KeepsFaultRegs s t ∧ KeepsInputs s t ∧ KeepsDraws s t ∧
      KeepsSinks s t) ∧
  (∀ (x : RegNum) (s : State) (w : Word), 4095 < s.index.toNat + 2 → s.fetch = some w → MemOobAt (.ldBVx x) s w)

/-- R222: LD [I],Vx stores V0..VX at I..I + X and leaves I, or takes MEM_OOB. -/
def Obligations.RegisterDump : Prop :=
  Encodes 0xF0FF#16 0xF055#16 (fun w => .ldMemVx (xField w)) ∧
  (∀ (x : RegNum) (s : State), s.index.toNat + x.toNat ≤ 4095 →
    ∃ t, exec (.ldMemVx x) s = .next t ∧
      (∀ r : RegNum, r.toNat ≤ x.toNat → t.readByte (s.index.toNat + r.toNat) = s.reg r) ∧
      KeepsMemOutside s.index.toNat (x.toNat + 1) s t ∧ t.pc = s.pc + 2 ∧ KeepsRegs (fun _ => False) s t ∧
      KeepsIndex s t ∧ KeepsStack s t ∧ KeepsTimers s t ∧ KeepsScreen s t ∧ KeepsFaultRegs s t ∧ KeepsInputs s t ∧
      KeepsDraws s t ∧ KeepsSinks s t) ∧
  (∀ (x : RegNum) (s : State) (w : Word), 4095 < s.index.toNat + x.toNat → s.fetch = some w →
    MemOobAt (.ldMemVx x) s w)

/-- R223: LD Vx,[I] loads V0..VX from I..I + X and leaves I and the registers above X, or takes MEM_OOB. -/
def Obligations.RegisterLoad : Prop :=
  Encodes 0xF0FF#16 0xF065#16 (fun w => .ldVxMem (xField w)) ∧
  (∀ (x : RegNum) (s : State), s.index.toNat + x.toNat ≤ 4095 →
    ∃ t, exec (.ldVxMem x) s = .next t ∧
      (∀ r : RegNum, r.toNat ≤ x.toNat → t.reg r = s.readByte (s.index.toNat + r.toNat)) ∧
      t.pc = s.pc + 2 ∧ KeepsRegs (fun r => r.toNat ≤ x.toNat) s t ∧ KeepsIndex s t ∧ KeepsOutside s t) ∧
  (∀ (x : RegNum) (s : State) (w : Word), 4095 < s.index.toNat + x.toNat → s.fetch = some w →
    MemOobAt (.ldVxMem x) s w)

/-- R63, R235: the whole range is checked before any effect, for the four instructions that access memory through I: with an
address above 4095 in the range each takes MEM_OOB, otherwise each completes without a fault. -/
def Obligations.DataRangeIsCheckedFirst : Prop :=
  ∀ (i : Instr) (len : Nat) (s : State) (w : Word), s.fetch = some w → s.halt = false →
    ((∃ x y n, i = .drw x y n ∧ len = n.toNat) ∨ (∃ x, i = .ldBVx x ∧ len = 3) ∨
      (∃ x, i = .ldMemVx x ∧ len = x.toNat + 1) ∨ (∃ x, i = .ldVxMem x ∧ len = x.toNat + 1)) →
    (TouchesOutside s len → MemOobAt i s w) ∧
    (¬TouchesOutside s len → ∃ t, exec i s = .next t ∧ KeepsFaultRegs s t ∧ t.pc = s.pc + 2)

/-- Dump then load with the same X and I gives back V0..VX (R224). -/
def Obligations.DumpThenLoadRestores : Prop :=
  ∀ (x : RegNum) (s : State), s.index.toNat + x.toNat ≤ 4095 →
    ∃ t u, exec (.ldMemVx x) s = .next t ∧ exec (.ldVxMem x) t = .next u ∧ u.index = s.index ∧ ∀ r, u.reg r = s.reg r

/-- A store, by LD [I] or by LD B, is seen by the next fetch, at whatever address: both bytes of the fetched word, one or
none may be stored ones (R73). -/
def Obligations.StoreIsSeenByTheNextFetch : Prop :=
  ∀ (x : RegNum) (s : State) (p : Word), p.toNat + 1 ≤ 4095 →
    (s.index.toNat + x.toNat ≤ 4095 → ∃ t, exec (.ldMemVx x) s = .next t ∧
      (t.setPc p).fetch = some (wordOfBytes (byteAfterDump s x p.toNat) (byteAfterDump s x (p.toNat + 1)))) ∧
    (s.index.toNat + 2 ≤ 4095 → ∃ t, exec (.ldBVx x) s = .next t ∧
      (t.setPc p).fetch = some (wordOfBytes (byteAfterBcd s x p.toNat) (byteAfterBcd s x (p.toNat + 1))))

/-! ## The whole machine -/

/-- Who writes what: the stack only CALL and RET (R29), the screen only CLS and DRW (R31, R33), I only LD I, ADD I and LD F
(R25), DT and ST only LD DT and LD ST (R26, R27), TDIV, KEY and the configuration no instruction (R34, R32, R37). -/
def Obligations.WritersOfEachPieceOfState : Prop :=
  ∀ i s t, exec i s = .next t →
    ((∀ nnn, i ≠ .call nnn) → i ≠ .ret → KeepsStack s t) ∧
    (i ≠ .cls → (∀ x y n, i ≠ .drw x y n) → KeepsScreen s t) ∧
    ((∀ nnn, i ≠ .ldI nnn) → (∀ x, i ≠ .addIVx x ∧ i ≠ .ldFVx x) → KeepsIndex s t) ∧
    ((∀ x, i ≠ .ldDtVx x) → t.dt = s.dt) ∧ ((∀ x, i ≠ .ldStVx x) → t.st = s.st) ∧
    t.tdiv = s.tdiv ∧ KeepsInputs s t

/-- VF changes only by the seven flag writers, by an instruction whose X is 15, and by a register load with X = 15
(R22, R42). -/
def Obligations.WritersOfTheFlag : Prop :=
  ∀ i s t, exec i s = .next t → t.reg 15 ≠ s.reg 15 →
    (∃ x y, i = .addReg x y ∨ i = .sub x y ∨ i = .subn x y) ∨ (∃ x, i = .shr x ∨ i = .shl x) ∨
    (∃ x y n, i = .drw x y n) ∨ (∃ x, i = .addIVx x) ∨
    (∃ nn, i = .ldByte 15 nn ∨ i = .addByte 15 nn ∨ i = .rnd 15 nn) ∨
    (∃ y, i = .ldReg 15 y ∨ i = .orReg 15 y ∨ i = .andReg 15 y ∨ i = .xorReg 15 y) ∨
    i = .ldVxDt 15 ∨ i = .ldVxK 15 ∨ i = .ldVxMem 15

/-- DIRTY and the sinks cannot be seen by a program: a cycle that starts with another DIRTY and other sinks' contents ends in
a state that differs in nothing else (R33, R252, R253). -/
def Obligations.DirtyAndSinksAreInvisible : Prop :=
  ∀ s t (d : Bool) (es : List Event), step s = .next t →
    ∃ d' es', step { s with dirty := d, emitted := es } = .next { t with dirty := d', emitted := es' }

/-! ## Reset and the host -/

/-- R40: the state after Reset, from any state, and the state the model starts from. -/
def Obligations.ResetState : Prop :=
  (∀ s : State,
    (∀ r, s.hostReset.reg r = 0) ∧ s.hostReset.index = 0 ∧ s.hostReset.pc = 0x0200 ∧ s.hostReset.sp = 0 ∧
    s.hostReset.stack.length = s.config.stackDepth ∧ (∀ k (h : k < s.hostReset.stack.length), s.hostReset.stack[k] = 0) ∧
    s.hostReset.dt = 0 ∧ s.hostReset.st = 0 ∧ (∀ off, off < 2048 → s.hostReset.pixel off = false) ∧
    (∀ k, k < 16 → s.hostReset.keyDown k = false) ∧
    (∀ a (h : a < 80), s.hostReset.readByte a = s.config.glyphRom[a]) ∧
    (∀ a, 80 ≤ a → a < 4096 → s.hostReset.readByte a = 0) ∧
    s.hostReset.dirty = false ∧ s.hostReset.tdiv = 0 ∧ s.hostReset.halt = false ∧ s.hostReset.cause = .none ∧
    s.hostReset.epc = 0 ∧ s.hostReset.eword = 0 ∧ s.hostReset.eaddr = 0 ∧ s.hostReset.config = s.config ∧
    s.hostReset.emitted = s.emitted) ∧
  State.reset.hostReset = State.reset

/-- R277: LoadImage places up to 3584 bytes at 0x200 before the first cycle and changes no other byte and nothing but memory; it
has no move for a longer image or a later time, and after the first cycle only LD B and LD [I] write memory. The refusals are
the model's form of having no move (assumption 11). -/
def Obligations.LoadImagePlacesTheProgram : Prop :=
  (∀ (h : Session) (bytes : List Byte), h.beforeCycle = true → bytes.length ≤ 3584 →
    ∃ h', hostStep (.loadImage bytes) h = .next (h', .done) ∧
      (∀ k (hk : k < bytes.length), h'.state.readByte (0x200 + k) = bytes[k]) ∧
      KeepsMemOutside 0x200 bytes.length h.state h'.state ∧
      h' = { h with state := { h.state with mem := h'.state.mem } }) ∧
  (∀ (h : Session) (bytes : List Byte), h.beforeCycle = true → 3584 < bytes.length →
    hostStep (.loadImage bytes) h = .refused .imageTooLong) ∧
  (∀ (h : Session) (bytes : List Byte), h.beforeCycle = false →
    hostStep (.loadImage bytes) h = .refused .loadTooLate) ∧
  (∀ op h h' r, h.beforeCycle = false → op ≠ .reset → op ≠ .cycle → hostStep op h = .next (h', r) →
    KeepsMem h.state h'.state ∧ h'.beforeCycle = false) ∧
  (∀ i s t, (∀ x, i ≠ .ldBVx x ∧ i ≠ .ldMemVx x) → exec i s = .next t → KeepsMem s t)

/-- R250: a tick is cyclesPerUpdate cycles; with 0 it does nothing, and cycles after a fault are no-ops. Each cycle starts
from the KEY supplied before it (R251), and the host's moves of a tick give what the tick as one function gives. That KEY
comes as a list of vectors, and the moves of the protocol, are the model's choice (assumptions 12 and 11). -/
def Obligations.TickRunsItsCycles : Prop :=
  (∀ s, tick [] s = Sys2Proof.core.run s.config.cyclesPerUpdate s) ∧
  (∀ keys s, s.config.cyclesPerUpdate = 0 → tick keys s = .next s) ∧
  (∀ (n : Nat) (s : State), s.config.wf = true → s.halt = true → runCycles n [] s = .next s) ∧
  (∀ (n : Nat) (k : BitVec 16) (ks : List (BitVec 16)) (s t : State), step (s.setKeys k) = .next t →
    runCycles (n + 1) (k :: ks) s = runCycles n ks t) ∧
  (∀ (h : Session) (keys : List (BitVec 16)) (t : State), h.cyclesLeft = 0 →
    keys.length = h.state.config.cyclesPerUpdate → tick keys h.state = .next t →
    ∃ h' rs, hostRun (tickMoves keys) h = .next (h', rs) ∧ h'.state = t ∧ h'.cyclesLeft = 0)

/-- R249: CLS and DRW set DIRTY, no cycle clears it, the host reads and clears it at once, Reset clears it. -/
def Obligations.DirtyIsClearedByTheHostOnly : Prop :=
  (∀ s t, exec .cls s = .next t → t.dirty = true) ∧
  (∀ x y n s t, exec (.drw x y n) s = .next t → ¬TouchesOutside s n.toNat → t.dirty = true) ∧
  (∀ s t, step s = .next t → s.dirty = true → t.dirty = true) ∧
  (∀ h : Session, hostStep .readAndClearDirty h =
    .next ({ h with state := { h.state with dirty := false } }, .dirty h.state.dirty)) ∧
  (∀ s : State, s.hostReset.dirty = false)

/-- The input collaborator alone writes KEY: SetKey sets one key, no other and nothing else, any vector may be supplied, and
no cycle changes KEY (R32, R251; assumption 12). -/
def Obligations.KeysAreWrittenByTheHostOnly : Prop :=
  (∀ (h : Session) (k : BitVec 4) (down : Bool), ∃ h', hostStep (.setKey k down) h = .next (h', .done) ∧
    (∀ j, j < 16 → h'.state.keyDown j = if j = k.toNat then down else h.state.keyDown j) ∧
    h' = { h with state := { h.state with keys := h'.state.keys } }) ∧
  (∀ (h : Session) (keys : BitVec 16),
    hostStep (.setKeys keys) h = .next ({ h with state := { h.state with keys := keys } }, .done)) ∧
  (∀ s t, step s = .next t → t.keys = s.keys)

/-- R37: the host sets the three registers and nothing else before the first tick, a cyclesPerTimerDecrement of 0 is refused,
no cycle and no Reset changes them, no instruction reads them, and the defaults are 1, 10 and 0. The refusals' form and the
protocol's flags are the model's (assumptions 8 and 11). -/
def Obligations.ConfigurationIsHeld : Prop :=
  (∀ (h : Session) (u d : Nat) (tr : Bool), h.beforeTick = true → 1 ≤ d → h.state.config.wf = true →
    hostStep (.configure u d tr) h = .next ({ h with state := { h.state with config := { h.state.config with
      cyclesPerUpdate := u, cyclesPerTimerDecrement := d, traceEnabled := tr } } }, .done)) ∧
  (∀ (h : Session) (u : Nat) (tr : Bool), h.beforeTick = true →
    hostStep (.configure u 0 tr) h = .refused .illegalConfiguration) ∧
  (∀ (h : Session) (u d : Nat) (tr : Bool), h.beforeTick = false →
    hostStep (.configure u d tr) h = .refused .configureTooLate) ∧
  (∀ s, s.config.cyclesPerTimerDecrement = 0 → step s = .refused .illegalConfiguration) ∧
  (∀ s t, step s = .next t → t.config = s.config) ∧
  (∀ i s t u d tr, exec i s = .next t → exec i (s.configure u d tr) = .next (t.configure u d tr)) ∧
  (∀ s : State, s.hostReset.config = s.config) ∧
  (State.reset.config.cyclesPerUpdate = 1 ∧ State.reset.config.cyclesPerTimerDecrement = 10 ∧
    State.reset.config.traceEnabled = false)

/-- The host's reads change nothing and return what the registers hold: the 2048 cells by linear index, column i mod 64 of
row i div 64 (R248), and the five fault registers (R36). -/
def Obligations.HostReadsChangeNothing : Prop :=
  ∀ h : Session,
    (∃ cells, hostStep .readFramebuffer h = .next (h, .framebuffer cells) ∧ cells.length = 2048 ∧
      ∀ i (hi : i < cells.length) (hr : i / 64 < 32), cells[i] = h.state.fb[i / 64].getLsbD (i % 64)) ∧
    hostStep .readStatus h = .next (h, .status
      { halt := h.state.halt, cause := h.state.cause, epc := h.state.epc, eword := h.state.eword,
        eaddr := h.state.eaddr })

/-- The moves of the host stand between any two cycles of a tick (R74, R250, R251, R270): the reads, DIRTY's read-and-clear, the
key writes and Reset answer whenever they come and leave the tick where it is; a tick makes cyclesPerUpdate cycles due, and the
Tick Driver's cycle is one cycle of the CORE. The refusals, and that a tick goes on after a Reset inside it, are the model's
(assumption 11). -/
def Obligations.HostActsBetweenTheCyclesOfATick : Prop :=
  (∀ (h : Session) (op : HostOp), (op = .reset ∨ op = .readFramebuffer ∨ op = .readAndClearDirty ∨ op = .readStatus ∨
      (∃ k down, op = .setKey k down) ∨ ∃ keys, op = .setKeys keys) →
    ∃ h' r, hostStep op h = .next (h', r) ∧ h'.cyclesLeft = h.cyclesLeft) ∧
  (∀ h : Session, ∃ h', hostStep .reset h = .next (h', .done) ∧ h'.state = h.state.hostReset ∧ h'.beforeTick = true ∧
    h'.beforeCycle = true) ∧
  (∀ h : Session, h.cyclesLeft = 0 → hostStep .cycle h = .refused .noCycleDue ∧
    hostStep .tick h = .next ({ h with cyclesLeft := h.state.config.cyclesPerUpdate, beforeTick := false }, .done)) ∧
  (∀ h : Session, h.cyclesLeft ≠ 0 → hostStep .tick h = .refused .tickInProgress ∧
    ∀ t e, cycle h.state = .next (t, e) → ∃ h', hostStep .cycle h = .next (h', .cycle e) ∧ h'.state = t ∧
      h'.cyclesLeft + 1 = h.cyclesLeft ∧ h'.beforeTick = false ∧ h'.beforeCycle = false)
end

