-- ==== Sys2Proof/Laws/Encoding.lean ====
section
/-! SUPPORT. The fields of a word put together from fields (spec R91, R92). -/

namespace Sys2Proof

section fields
variable (f x y n : BitVec 4) (nn : Byte) (nnn : BitVec 12)

/-- The bits of a word of format NNN. -/
theorem getLsbD_wordNnn (i : Nat) :
    (wordNnn f nnn).getLsbD i = if i < 12 then nnn.getLsbD i else f.getLsbD (i - 12) :=
  BitVec.getLsbD_append (x := f) (y := nnn)

/-- The bits of a word of format XNN. -/
theorem getLsbD_wordXnn (i : Nat) :
    (wordXnn f x nn).getLsbD i =
      if i < 8 then nn.getLsbD i else if i - 8 < 4 then x.getLsbD (i - 8) else f.getLsbD (i - 8 - 4) :=
  (BitVec.getLsbD_append (x := f ++ x) (y := nn)).trans (by simp only [BitVec.getLsbD_append])

/-- The bits of a word of four nibbles. -/
theorem getLsbD_nibbles (i : Nat) :
    (nibbles f x y n).getLsbD i =
      if i < 4 then n.getLsbD i else if i - 4 < 4 then y.getLsbD (i - 4)
      else if i - 4 - 4 < 4 then x.getLsbD (i - 4 - 4) else f.getLsbD (i - 4 - 4 - 4) :=
  (BitVec.getLsbD_append (x := f ++ x ++ y) (y := n)).trans (by simp only [BitVec.getLsbD_append])

@[simp] theorem familyField_wordNnn : familyField (wordNnn f nnn) = f := by
  refine BitVec.eq_of_getLsbD_eq fun i hi => ?_
  simp [familyField, hi, getLsbD_wordNnn]

@[simp] theorem nnnField_wordNnn : nnnField (wordNnn f nnn) = nnn := by
  refine BitVec.eq_of_getLsbD_eq fun i hi => ?_
  simp [nnnField, hi, getLsbD_wordNnn]

@[simp] theorem familyField_wordXnn : familyField (wordXnn f x nn) = f := by
  refine BitVec.eq_of_getLsbD_eq fun i hi => ?_
  have h1 : ¬12 + i < 8 := by omega
  have h2 : ¬12 + i - 8 < 4 := by omega
  have h3 : 12 + i - 8 - 4 = i := by omega
  simp [familyField, hi, getLsbD_wordXnn, h1, h2, h3]

@[simp] theorem xField_wordXnn : xField (wordXnn f x nn) = x := by
  refine BitVec.eq_of_getLsbD_eq fun i hi => ?_
  simp [xField, hi, getLsbD_wordXnn]

@[simp] theorem nnField_wordXnn : nnField (wordXnn f x nn) = nn := by
  refine BitVec.eq_of_getLsbD_eq fun i hi => ?_
  simp [nnField, hi, getLsbD_wordXnn]

@[simp] theorem familyField_nibbles : familyField (nibbles f x y n) = f := by
  refine BitVec.eq_of_getLsbD_eq fun i hi => ?_
  have h1 : ¬12 + i < 4 := by omega
  have h2 : ¬12 + i - 4 < 4 := by omega
  have h3 : ¬12 + i - 4 - 4 < 4 := by omega
  have h4 : 12 + i - 4 - 4 - 4 = i := by omega
  simp [familyField, hi, getLsbD_nibbles, h1, h2, h3, h4]

@[simp] theorem xField_nibbles : xField (nibbles f x y n) = x := by
  refine BitVec.eq_of_getLsbD_eq fun i hi => ?_
  have h1 : ¬8 + i < 4 := by omega
  have h2 : ¬8 + i - 4 < 4 := by omega
  have h3 : 8 + i - 4 - 4 = i := by omega
  simp [xField, hi, getLsbD_nibbles, h1, h2, h3]

@[simp] theorem yField_nibbles : yField (nibbles f x y n) = y := by
  refine BitVec.eq_of_getLsbD_eq fun i hi => ?_
  simp [yField, hi, getLsbD_nibbles]

@[simp] theorem nField_nibbles : nField (nibbles f x y n) = n := by
  refine BitVec.eq_of_getLsbD_eq fun i hi => ?_
  simp [nField, hi, getLsbD_nibbles]

end fields

/-- A word that matches under a mask has the match's family, when the mask holds the family bits. -/
theorem familyField_of_mask {w mask val : Word} (h : w &&& mask = val) (hm : familyField mask = 0xF#4) :
    familyField w = familyField val := by
  have := congrArg familyField h
  unfold familyField at *
  rw [BitVec.extractLsb'_and, hm] at this
  rw [← this]
  exact (BitVec.and_allOnes (x := w.extractLsb' 12 4)).symm

/-- The same for the low nibble. -/
theorem nField_of_mask {w mask val : Word} (h : w &&& mask = val) (hm : nField mask = 0xF#4) :
    nField w = nField val := by
  have := congrArg nField h
  unfold nField at *
  rw [BitVec.extractLsb'_and, hm] at this
  rw [← this]
  exact (BitVec.and_allOnes (x := w.extractLsb' 0 4)).symm

/-- The same for the low byte. -/
theorem nnField_of_mask {w mask val : Word} (h : w &&& mask = val) (hm : nnField mask = 0xFF#8) :
    nnField w = nnField val := by
  have := congrArg nnField h
  unfold nnField at *
  rw [BitVec.extractLsb'_and, hm] at this
  rw [← this]
  exact (BitVec.and_allOnes (x := w.extractLsb' 0 8)).symm

/-- The word of the two bytes of a word is that word (R61). -/
theorem wordOfBytes_bytesOfWord (w : Word) : wordOfBytes (w.extractLsb' 8 8) (w.extractLsb' 0 8) = w := by
  refine BitVec.eq_of_getLsbD_eq fun i hi => ?_
  refine (BitVec.getLsbD_append (x := w.extractLsb' 8 8) (y := w.extractLsb' 0 8)).trans ?_
  by_cases h : i < 8
  · simp [h]
  · have h1 : i - 8 < 8 := by omega
    have h2 : 8 + (i - 8) = i := by omega
    simp [h, h1, h2]

/-- What the mask of a family-only row keeps (R103). -/
theorem and_F000 (w : Word) : w &&& 0xF000#16 = nibbles (familyField w) 0 0 0 := by
  refine BitVec.eq_of_getLsbD_eq fun i hi => ?_
  rw [getLsbD_nibbles]
  interval_cases i <;> simp [familyField]

/-- What the mask of a family-8 row keeps (R103). -/
theorem and_F00F (w : Word) : w &&& 0xF00F#16 = nibbles (familyField w) 0 0 (nField w) := by
  refine BitVec.eq_of_getLsbD_eq fun i hi => ?_
  rw [getLsbD_nibbles]
  interval_cases i <;> simp [familyField, nField]

/-- What the mask of a family-E or family-F row keeps (R103). -/
theorem and_F0FF (w : Word) : w &&& 0xF0FF#16 = wordXnn (familyField w) 0 (nnField w) := by
  refine BitVec.eq_of_getLsbD_eq fun i hi => ?_
  rw [getLsbD_wordXnn]
  interval_cases i <;> simp [familyField, nnField]

end Sys2Proof
end

