-- ==== Sys2Proof/Laws/State.lean ====
section
/-! SUPPORT. What each field and each observer of State reads after each update: one lemma per field per update, so that no
later proof unfolds a record update. -/

namespace Sys2Proof.Machine
namespace State

variable (s : State)

/-- The PC update of a sequential advance. -/
@[simp] theorem advance_eq : s.advance = s.setPc (s.pc + 2) := rfl
/-- The PC update of a skip. -/
@[simp] theorem skipIf_eq (c : Bool) : s.skipIf c = s.setPc (if c then s.pc + 4 else s.pc + 2) := rfl
/-- A flag write is a write of V[15]. -/
@[simp] theorem setFlag_eq (b : Byte) : s.setFlag b = s.setReg 15 b := rfl
/-- The two writes of a flag-writing instruction, in order. -/
@[simp] theorem setFlagThenReg_eq (x : RegNum) (f b : Byte) :
    s.setFlagThenReg x f b = (s.setReg 15 f).setReg x b := rfl

/-! After `setReg`. -/
@[simp] theorem setReg_v (x : RegNum) (b : Byte) : (s.setReg x b).v = s.v.set x.toNat b x.isLt := rfl
@[simp] theorem setReg_index (x : RegNum) (b : Byte) : (s.setReg x b).index = s.index := rfl
@[simp] theorem setReg_pc (x : RegNum) (b : Byte) : (s.setReg x b).pc = s.pc := rfl
@[simp] theorem setReg_stack (x : RegNum) (b : Byte) : (s.setReg x b).stack = s.stack := rfl
@[simp] theorem setReg_sp (x : RegNum) (b : Byte) : (s.setReg x b).sp = s.sp := rfl
@[simp] theorem setReg_dt (x : RegNum) (b : Byte) : (s.setReg x b).dt = s.dt := rfl
@[simp] theorem setReg_st (x : RegNum) (b : Byte) : (s.setReg x b).st = s.st := rfl
@[simp] theorem setReg_fb (x : RegNum) (b : Byte) : (s.setReg x b).fb = s.fb := rfl
@[simp] theorem setReg_keys (x : RegNum) (b : Byte) : (s.setReg x b).keys = s.keys := rfl
@[simp] theorem setReg_dirty (x : RegNum) (b : Byte) : (s.setReg x b).dirty = s.dirty := rfl
@[simp] theorem setReg_tdiv (x : RegNum) (b : Byte) : (s.setReg x b).tdiv = s.tdiv := rfl
@[simp] theorem setReg_halt (x : RegNum) (b : Byte) : (s.setReg x b).halt = s.halt := rfl
@[simp] theorem setReg_cause (x : RegNum) (b : Byte) : (s.setReg x b).cause = s.cause := rfl
@[simp] theorem setReg_epc (x : RegNum) (b : Byte) : (s.setReg x b).epc = s.epc := rfl
@[simp] theorem setReg_eword (x : RegNum) (b : Byte) : (s.setReg x b).eword = s.eword := rfl
@[simp] theorem setReg_eaddr (x : RegNum) (b : Byte) : (s.setReg x b).eaddr = s.eaddr := rfl
@[simp] theorem setReg_mem (x : RegNum) (b : Byte) : (s.setReg x b).mem = s.mem := rfl
@[simp] theorem setReg_config (x : RegNum) (b : Byte) : (s.setReg x b).config = s.config := rfl
@[simp] theorem setReg_draws (x : RegNum) (b : Byte) : (s.setReg x b).draws = s.draws := rfl
@[simp] theorem setReg_emitted (x : RegNum) (b : Byte) : (s.setReg x b).emitted = s.emitted := rfl
@[simp] theorem setReg_readByte (x : RegNum) (b : Byte) (addr : Nat) : (s.setReg x b).readByte addr = s.readByte addr := rfl
@[simp] theorem setReg_pixel (x : RegNum) (b : Byte) (off : Nat) : (s.setReg x b).pixel off = s.pixel off := rfl
@[simp] theorem setReg_fetch (x : RegNum) (b : Byte) : (s.setReg x b).fetch = s.fetch := rfl
@[simp] theorem setReg_keyDown (x : RegNum) (b : Byte) (k : Nat) : (s.setReg x b).keyDown k = s.keyDown k := rfl

/-! After `loadRegs`. -/
@[simp] theorem loadRegs_index (x : RegNum) (a : Nat) : (s.loadRegs x a).index = s.index := rfl
@[simp] theorem loadRegs_pc (x : RegNum) (a : Nat) : (s.loadRegs x a).pc = s.pc := rfl
@[simp] theorem loadRegs_stack (x : RegNum) (a : Nat) : (s.loadRegs x a).stack = s.stack := rfl
@[simp] theorem loadRegs_sp (x : RegNum) (a : Nat) : (s.loadRegs x a).sp = s.sp := rfl
@[simp] theorem loadRegs_dt (x : RegNum) (a : Nat) : (s.loadRegs x a).dt = s.dt := rfl
@[simp] theorem loadRegs_st (x : RegNum) (a : Nat) : (s.loadRegs x a).st = s.st := rfl
@[simp] theorem loadRegs_fb (x : RegNum) (a : Nat) : (s.loadRegs x a).fb = s.fb := rfl
@[simp] theorem loadRegs_keys (x : RegNum) (a : Nat) : (s.loadRegs x a).keys = s.keys := rfl
@[simp] theorem loadRegs_dirty (x : RegNum) (a : Nat) : (s.loadRegs x a).dirty = s.dirty := rfl
@[simp] theorem loadRegs_tdiv (x : RegNum) (a : Nat) : (s.loadRegs x a).tdiv = s.tdiv := rfl
@[simp] theorem loadRegs_halt (x : RegNum) (a : Nat) : (s.loadRegs x a).halt = s.halt := rfl
@[simp] theorem loadRegs_cause (x : RegNum) (a : Nat) : (s.loadRegs x a).cause = s.cause := rfl
@[simp] theorem loadRegs_epc (x : RegNum) (a : Nat) : (s.loadRegs x a).epc = s.epc := rfl
@[simp] theorem loadRegs_eword (x : RegNum) (a : Nat) : (s.loadRegs x a).eword = s.eword := rfl
@[simp] theorem loadRegs_eaddr (x : RegNum) (a : Nat) : (s.loadRegs x a).eaddr = s.eaddr := rfl
@[simp] theorem loadRegs_mem (x : RegNum) (a : Nat) : (s.loadRegs x a).mem = s.mem := rfl
@[simp] theorem loadRegs_config (x : RegNum) (a : Nat) : (s.loadRegs x a).config = s.config := rfl
@[simp] theorem loadRegs_draws (x : RegNum) (a : Nat) : (s.loadRegs x a).draws = s.draws := rfl
@[simp] theorem loadRegs_emitted (x : RegNum) (a : Nat) : (s.loadRegs x a).emitted = s.emitted := rfl
@[simp] theorem loadRegs_readByte (x : RegNum) (a : Nat) (addr : Nat) : (s.loadRegs x a).readByte addr = s.readByte addr := rfl
@[simp] theorem loadRegs_pixel (x : RegNum) (a : Nat) (off : Nat) : (s.loadRegs x a).pixel off = s.pixel off := rfl
@[simp] theorem loadRegs_fetch (x : RegNum) (a : Nat) : (s.loadRegs x a).fetch = s.fetch := rfl
@[simp] theorem loadRegs_keyDown (x : RegNum) (a : Nat) (k : Nat) : (s.loadRegs x a).keyDown k = s.keyDown k := rfl

/-! After `setPc`. -/
@[simp] theorem setPc_v (a : Word) : (s.setPc a).v = s.v := rfl
@[simp] theorem setPc_index (a : Word) : (s.setPc a).index = s.index := rfl
@[simp] theorem setPc_pc (a : Word) : (s.setPc a).pc = a := rfl
@[simp] theorem setPc_stack (a : Word) : (s.setPc a).stack = s.stack := rfl
@[simp] theorem setPc_sp (a : Word) : (s.setPc a).sp = s.sp := rfl
@[simp] theorem setPc_dt (a : Word) : (s.setPc a).dt = s.dt := rfl
@[simp] theorem setPc_st (a : Word) : (s.setPc a).st = s.st := rfl
@[simp] theorem setPc_fb (a : Word) : (s.setPc a).fb = s.fb := rfl
@[simp] theorem setPc_keys (a : Word) : (s.setPc a).keys = s.keys := rfl
@[simp] theorem setPc_dirty (a : Word) : (s.setPc a).dirty = s.dirty := rfl
@[simp] theorem setPc_tdiv (a : Word) : (s.setPc a).tdiv = s.tdiv := rfl
@[simp] theorem setPc_halt (a : Word) : (s.setPc a).halt = s.halt := rfl
@[simp] theorem setPc_cause (a : Word) : (s.setPc a).cause = s.cause := rfl
@[simp] theorem setPc_epc (a : Word) : (s.setPc a).epc = s.epc := rfl
@[simp] theorem setPc_eword (a : Word) : (s.setPc a).eword = s.eword := rfl
@[simp] theorem setPc_eaddr (a : Word) : (s.setPc a).eaddr = s.eaddr := rfl
@[simp] theorem setPc_mem (a : Word) : (s.setPc a).mem = s.mem := rfl
@[simp] theorem setPc_config (a : Word) : (s.setPc a).config = s.config := rfl
@[simp] theorem setPc_draws (a : Word) : (s.setPc a).draws = s.draws := rfl
@[simp] theorem setPc_emitted (a : Word) : (s.setPc a).emitted = s.emitted := rfl
@[simp] theorem setPc_reg (a : Word) (r : RegNum) : (s.setPc a).reg r = s.reg r := rfl
@[simp] theorem setPc_readByte (a : Word) (addr : Nat) : (s.setPc a).readByte addr = s.readByte addr := rfl
@[simp] theorem setPc_pixel (a : Word) (off : Nat) : (s.setPc a).pixel off = s.pixel off := rfl
@[simp] theorem setPc_keyDown (a : Word) (k : Nat) : (s.setPc a).keyDown k = s.keyDown k := rfl

/-! After `setIndex`. -/
@[simp] theorem setIndex_v (a : Word) : (s.setIndex a).v = s.v := rfl
@[simp] theorem setIndex_index (a : Word) : (s.setIndex a).index = a := rfl
@[simp] theorem setIndex_pc (a : Word) : (s.setIndex a).pc = s.pc := rfl
@[simp] theorem setIndex_stack (a : Word) : (s.setIndex a).stack = s.stack := rfl
@[simp] theorem setIndex_sp (a : Word) : (s.setIndex a).sp = s.sp := rfl
@[simp] theorem setIndex_dt (a : Word) : (s.setIndex a).dt = s.dt := rfl
@[simp] theorem setIndex_st (a : Word) : (s.setIndex a).st = s.st := rfl
@[simp] theorem setIndex_fb (a : Word) : (s.setIndex a).fb = s.fb := rfl
@[simp] theorem setIndex_keys (a : Word) : (s.setIndex a).keys = s.keys := rfl
@[simp] theorem setIndex_dirty (a : Word) : (s.setIndex a).dirty = s.dirty := rfl
@[simp] theorem setIndex_tdiv (a : Word) : (s.setIndex a).tdiv = s.tdiv := rfl
@[simp] theorem setIndex_halt (a : Word) : (s.setIndex a).halt = s.halt := rfl
@[simp] theorem setIndex_cause (a : Word) : (s.setIndex a).cause = s.cause := rfl
@[simp] theorem setIndex_epc (a : Word) : (s.setIndex a).epc = s.epc := rfl
@[simp] theorem setIndex_eword (a : Word) : (s.setIndex a).eword = s.eword := rfl
@[simp] theorem setIndex_eaddr (a : Word) : (s.setIndex a).eaddr = s.eaddr := rfl
@[simp] theorem setIndex_mem (a : Word) : (s.setIndex a).mem = s.mem := rfl
@[simp] theorem setIndex_config (a : Word) : (s.setIndex a).config = s.config := rfl
@[simp] theorem setIndex_draws (a : Word) : (s.setIndex a).draws = s.draws := rfl
@[simp] theorem setIndex_emitted (a : Word) : (s.setIndex a).emitted = s.emitted := rfl
@[simp] theorem setIndex_reg (a : Word) (r : RegNum) : (s.setIndex a).reg r = s.reg r := rfl
@[simp] theorem setIndex_readByte (a : Word) (addr : Nat) : (s.setIndex a).readByte addr = s.readByte addr := rfl
@[simp] theorem setIndex_pixel (a : Word) (off : Nat) : (s.setIndex a).pixel off = s.pixel off := rfl
@[simp] theorem setIndex_fetch (a : Word) : (s.setIndex a).fetch = s.fetch := rfl
@[simp] theorem setIndex_keyDown (a : Word) (k : Nat) : (s.setIndex a).keyDown k = s.keyDown k := rfl

/-! After `emit`. -/
@[simp] theorem emit_v (e : Event) : (s.emit e).v = s.v := rfl
@[simp] theorem emit_index (e : Event) : (s.emit e).index = s.index := rfl
@[simp] theorem emit_pc (e : Event) : (s.emit e).pc = s.pc := rfl
@[simp] theorem emit_stack (e : Event) : (s.emit e).stack = s.stack := rfl
@[simp] theorem emit_sp (e : Event) : (s.emit e).sp = s.sp := rfl
@[simp] theorem emit_dt (e : Event) : (s.emit e).dt = s.dt := rfl
@[simp] theorem emit_st (e : Event) : (s.emit e).st = s.st := rfl
@[simp] theorem emit_fb (e : Event) : (s.emit e).fb = s.fb := rfl
@[simp] theorem emit_keys (e : Event) : (s.emit e).keys = s.keys := rfl
@[simp] theorem emit_dirty (e : Event) : (s.emit e).dirty = s.dirty := rfl
@[simp] theorem emit_tdiv (e : Event) : (s.emit e).tdiv = s.tdiv := rfl
@[simp] theorem emit_halt (e : Event) : (s.emit e).halt = s.halt := rfl
@[simp] theorem emit_cause (e : Event) : (s.emit e).cause = s.cause := rfl
@[simp] theorem emit_epc (e : Event) : (s.emit e).epc = s.epc := rfl
@[simp] theorem emit_eword (e : Event) : (s.emit e).eword = s.eword := rfl
@[simp] theorem emit_eaddr (e : Event) : (s.emit e).eaddr = s.eaddr := rfl
@[simp] theorem emit_mem (e : Event) : (s.emit e).mem = s.mem := rfl
@[simp] theorem emit_config (e : Event) : (s.emit e).config = s.config := rfl
@[simp] theorem emit_draws (e : Event) : (s.emit e).draws = s.draws := rfl
@[simp] theorem emit_emitted (e : Event) : (s.emit e).emitted = e :: s.emitted := rfl
@[simp] theorem emit_reg (e : Event) (r : RegNum) : (s.emit e).reg r = s.reg r := rfl
@[simp] theorem emit_readByte (e : Event) (addr : Nat) : (s.emit e).readByte addr = s.readByte addr := rfl
@[simp] theorem emit_pixel (e : Event) (off : Nat) : (s.emit e).pixel off = s.pixel off := rfl
@[simp] theorem emit_fetch (e : Event) : (s.emit e).fetch = s.fetch := rfl
@[simp] theorem emit_keyDown (e : Event) (k : Nat) : (s.emit e).keyDown k = s.keyDown k := rfl

/-! After `setDt`. -/
@[simp] theorem setDt_v (b : Byte) : (s.setDt b).v = s.v := rfl
@[simp] theorem setDt_index (b : Byte) : (s.setDt b).index = s.index := rfl
@[simp] theorem setDt_pc (b : Byte) : (s.setDt b).pc = s.pc := rfl
@[simp] theorem setDt_stack (b : Byte) : (s.setDt b).stack = s.stack := rfl
@[simp] theorem setDt_sp (b : Byte) : (s.setDt b).sp = s.sp := rfl
@[simp] theorem setDt_dt (b : Byte) : (s.setDt b).dt = b := rfl
@[simp] theorem setDt_st (b : Byte) : (s.setDt b).st = s.st := rfl
@[simp] theorem setDt_fb (b : Byte) : (s.setDt b).fb = s.fb := rfl
@[simp] theorem setDt_keys (b : Byte) : (s.setDt b).keys = s.keys := rfl
@[simp] theorem setDt_dirty (b : Byte) : (s.setDt b).dirty = s.dirty := rfl
@[simp] theorem setDt_tdiv (b : Byte) : (s.setDt b).tdiv = s.tdiv := rfl
@[simp] theorem setDt_halt (b : Byte) : (s.setDt b).halt = s.halt := rfl
@[simp] theorem setDt_cause (b : Byte) : (s.setDt b).cause = s.cause := rfl
@[simp] theorem setDt_epc (b : Byte) : (s.setDt b).epc = s.epc := rfl
@[simp] theorem setDt_eword (b : Byte) : (s.setDt b).eword = s.eword := rfl
@[simp] theorem setDt_eaddr (b : Byte) : (s.setDt b).eaddr = s.eaddr := rfl
@[simp] theorem setDt_mem (b : Byte) : (s.setDt b).mem = s.mem := rfl
@[simp] theorem setDt_config (b : Byte) : (s.setDt b).config = s.config := rfl
@[simp] theorem setDt_draws (b : Byte) : (s.setDt b).draws = s.draws := rfl
@[simp] theorem setDt_emitted (b : Byte) : (s.setDt b).emitted = s.emitted := rfl
@[simp] theorem setDt_reg (b : Byte) (r : RegNum) : (s.setDt b).reg r = s.reg r := rfl
@[simp] theorem setDt_readByte (b : Byte) (addr : Nat) : (s.setDt b).readByte addr = s.readByte addr := rfl
@[simp] theorem setDt_pixel (b : Byte) (off : Nat) : (s.setDt b).pixel off = s.pixel off := rfl
@[simp] theorem setDt_fetch (b : Byte) : (s.setDt b).fetch = s.fetch := rfl
@[simp] theorem setDt_keyDown (b : Byte) (k : Nat) : (s.setDt b).keyDown k = s.keyDown k := rfl

/-! After `updateSt`. -/
@[simp] theorem updateSt_v (b : Byte) : (s.updateSt b).v = s.v := rfl
@[simp] theorem updateSt_index (b : Byte) : (s.updateSt b).index = s.index := rfl
@[simp] theorem updateSt_pc (b : Byte) : (s.updateSt b).pc = s.pc := rfl
@[simp] theorem updateSt_stack (b : Byte) : (s.updateSt b).stack = s.stack := rfl
@[simp] theorem updateSt_sp (b : Byte) : (s.updateSt b).sp = s.sp := rfl
@[simp] theorem updateSt_dt (b : Byte) : (s.updateSt b).dt = s.dt := rfl
@[simp] theorem updateSt_st (b : Byte) : (s.updateSt b).st = b := rfl
@[simp] theorem updateSt_fb (b : Byte) : (s.updateSt b).fb = s.fb := rfl
@[simp] theorem updateSt_keys (b : Byte) : (s.updateSt b).keys = s.keys := rfl
@[simp] theorem updateSt_dirty (b : Byte) : (s.updateSt b).dirty = s.dirty := rfl
@[simp] theorem updateSt_tdiv (b : Byte) : (s.updateSt b).tdiv = s.tdiv := rfl
@[simp] theorem updateSt_halt (b : Byte) : (s.updateSt b).halt = s.halt := rfl
@[simp] theorem updateSt_cause (b : Byte) : (s.updateSt b).cause = s.cause := rfl
@[simp] theorem updateSt_epc (b : Byte) : (s.updateSt b).epc = s.epc := rfl
@[simp] theorem updateSt_eword (b : Byte) : (s.updateSt b).eword = s.eword := rfl
@[simp] theorem updateSt_eaddr (b : Byte) : (s.updateSt b).eaddr = s.eaddr := rfl
@[simp] theorem updateSt_mem (b : Byte) : (s.updateSt b).mem = s.mem := rfl
@[simp] theorem updateSt_config (b : Byte) : (s.updateSt b).config = s.config := rfl
@[simp] theorem updateSt_draws (b : Byte) : (s.updateSt b).draws = s.draws := rfl
@[simp] theorem updateSt_emitted (b : Byte) : (s.updateSt b).emitted = if s.st ≠ 0 ∧ b = 0 then .soundEdge :: s.emitted else s.emitted := rfl
@[simp] theorem updateSt_reg (b : Byte) (r : RegNum) : (s.updateSt b).reg r = s.reg r := rfl
@[simp] theorem updateSt_readByte (b : Byte) (addr : Nat) : (s.updateSt b).readByte addr = s.readByte addr := rfl
@[simp] theorem updateSt_pixel (b : Byte) (off : Nat) : (s.updateSt b).pixel off = s.pixel off := rfl
@[simp] theorem updateSt_fetch (b : Byte) : (s.updateSt b).fetch = s.fetch := rfl
@[simp] theorem updateSt_keyDown (b : Byte) (k : Nat) : (s.updateSt b).keyDown k = s.keyDown k := rfl

/-! After `setTdiv`. -/
@[simp] theorem setTdiv_v (n : Nat) : (s.setTdiv n).v = s.v := rfl
@[simp] theorem setTdiv_index (n : Nat) : (s.setTdiv n).index = s.index := rfl
@[simp] theorem setTdiv_pc (n : Nat) : (s.setTdiv n).pc = s.pc := rfl
@[simp] theorem setTdiv_stack (n : Nat) : (s.setTdiv n).stack = s.stack := rfl
@[simp] theorem setTdiv_sp (n : Nat) : (s.setTdiv n).sp = s.sp := rfl
@[simp] theorem setTdiv_dt (n : Nat) : (s.setTdiv n).dt = s.dt := rfl
@[simp] theorem setTdiv_st (n : Nat) : (s.setTdiv n).st = s.st := rfl
@[simp] theorem setTdiv_fb (n : Nat) : (s.setTdiv n).fb = s.fb := rfl
@[simp] theorem setTdiv_keys (n : Nat) : (s.setTdiv n).keys = s.keys := rfl
@[simp] theorem setTdiv_dirty (n : Nat) : (s.setTdiv n).dirty = s.dirty := rfl
@[simp] theorem setTdiv_tdiv (n : Nat) : (s.setTdiv n).tdiv = n := rfl
@[simp] theorem setTdiv_halt (n : Nat) : (s.setTdiv n).halt = s.halt := rfl
@[simp] theorem setTdiv_cause (n : Nat) : (s.setTdiv n).cause = s.cause := rfl
@[simp] theorem setTdiv_epc (n : Nat) : (s.setTdiv n).epc = s.epc := rfl
@[simp] theorem setTdiv_eword (n : Nat) : (s.setTdiv n).eword = s.eword := rfl
@[simp] theorem setTdiv_eaddr (n : Nat) : (s.setTdiv n).eaddr = s.eaddr := rfl
@[simp] theorem setTdiv_mem (n : Nat) : (s.setTdiv n).mem = s.mem := rfl
@[simp] theorem setTdiv_config (n : Nat) : (s.setTdiv n).config = s.config := rfl
@[simp] theorem setTdiv_draws (n : Nat) : (s.setTdiv n).draws = s.draws := rfl
@[simp] theorem setTdiv_emitted (n : Nat) : (s.setTdiv n).emitted = s.emitted := rfl
@[simp] theorem setTdiv_reg (n : Nat) (r : RegNum) : (s.setTdiv n).reg r = s.reg r := rfl
@[simp] theorem setTdiv_readByte (n : Nat) (addr : Nat) : (s.setTdiv n).readByte addr = s.readByte addr := rfl
@[simp] theorem setTdiv_pixel (n : Nat) (off : Nat) : (s.setTdiv n).pixel off = s.pixel off := rfl
@[simp] theorem setTdiv_fetch (n : Nat) : (s.setTdiv n).fetch = s.fetch := rfl
@[simp] theorem setTdiv_keyDown (n : Nat) (k : Nat) : (s.setTdiv n).keyDown k = s.keyDown k := rfl

/-! After `clearScreen`. -/
@[simp] theorem clearScreen_v : s.clearScreen.v = s.v := rfl
@[simp] theorem clearScreen_index : s.clearScreen.index = s.index := rfl
@[simp] theorem clearScreen_pc : s.clearScreen.pc = s.pc := rfl
@[simp] theorem clearScreen_stack : s.clearScreen.stack = s.stack := rfl
@[simp] theorem clearScreen_sp : s.clearScreen.sp = s.sp := rfl
@[simp] theorem clearScreen_dt : s.clearScreen.dt = s.dt := rfl
@[simp] theorem clearScreen_st : s.clearScreen.st = s.st := rfl
@[simp] theorem clearScreen_fb : s.clearScreen.fb = Vector.replicate 32 0 := rfl
@[simp] theorem clearScreen_keys : s.clearScreen.keys = s.keys := rfl
@[simp] theorem clearScreen_dirty : s.clearScreen.dirty = true := rfl
@[simp] theorem clearScreen_tdiv : s.clearScreen.tdiv = s.tdiv := rfl
@[simp] theorem clearScreen_halt : s.clearScreen.halt = s.halt := rfl
@[simp] theorem clearScreen_cause : s.clearScreen.cause = s.cause := rfl
@[simp] theorem clearScreen_epc : s.clearScreen.epc = s.epc := rfl
@[simp] theorem clearScreen_eword : s.clearScreen.eword = s.eword := rfl
@[simp] theorem clearScreen_eaddr : s.clearScreen.eaddr = s.eaddr := rfl
@[simp] theorem clearScreen_mem : s.clearScreen.mem = s.mem := rfl
@[simp] theorem clearScreen_config : s.clearScreen.config = s.config := rfl
@[simp] theorem clearScreen_draws : s.clearScreen.draws = s.draws := rfl
@[simp] theorem clearScreen_emitted : s.clearScreen.emitted = s.emitted := rfl
@[simp] theorem clearScreen_reg (r : RegNum) : s.clearScreen.reg r = s.reg r := rfl
@[simp] theorem clearScreen_readByte (addr : Nat) : s.clearScreen.readByte addr = s.readByte addr := rfl
@[simp] theorem clearScreen_fetch : s.clearScreen.fetch = s.fetch := rfl
@[simp] theorem clearScreen_keyDown (k : Nat) : s.clearScreen.keyDown k = s.keyDown k := rfl

/-! After `setScreen`. -/
@[simp] theorem setScreen_v (f : Framebuffer) : (s.setScreen f).v = s.v := rfl
@[simp] theorem setScreen_index (f : Framebuffer) : (s.setScreen f).index = s.index := rfl
@[simp] theorem setScreen_pc (f : Framebuffer) : (s.setScreen f).pc = s.pc := rfl
@[simp] theorem setScreen_stack (f : Framebuffer) : (s.setScreen f).stack = s.stack := rfl
@[simp] theorem setScreen_sp (f : Framebuffer) : (s.setScreen f).sp = s.sp := rfl
@[simp] theorem setScreen_dt (f : Framebuffer) : (s.setScreen f).dt = s.dt := rfl
@[simp] theorem setScreen_st (f : Framebuffer) : (s.setScreen f).st = s.st := rfl
@[simp] theorem setScreen_fb (f : Framebuffer) : (s.setScreen f).fb = f := rfl
@[simp] theorem setScreen_keys (f : Framebuffer) : (s.setScreen f).keys = s.keys := rfl
@[simp] theorem setScreen_dirty (f : Framebuffer) : (s.setScreen f).dirty = true := rfl
@[simp] theorem setScreen_tdiv (f : Framebuffer) : (s.setScreen f).tdiv = s.tdiv := rfl
@[simp] theorem setScreen_halt (f : Framebuffer) : (s.setScreen f).halt = s.halt := rfl
@[simp] theorem setScreen_cause (f : Framebuffer) : (s.setScreen f).cause = s.cause := rfl
@[simp] theorem setScreen_epc (f : Framebuffer) : (s.setScreen f).epc = s.epc := rfl
@[simp] theorem setScreen_eword (f : Framebuffer) : (s.setScreen f).eword = s.eword := rfl
@[simp] theorem setScreen_eaddr (f : Framebuffer) : (s.setScreen f).eaddr = s.eaddr := rfl
@[simp] theorem setScreen_mem (f : Framebuffer) : (s.setScreen f).mem = s.mem := rfl
@[simp] theorem setScreen_config (f : Framebuffer) : (s.setScreen f).config = s.config := rfl
@[simp] theorem setScreen_draws (f : Framebuffer) : (s.setScreen f).draws = s.draws := rfl
@[simp] theorem setScreen_emitted (f : Framebuffer) : (s.setScreen f).emitted = s.emitted := rfl
@[simp] theorem setScreen_reg (f : Framebuffer) (r : RegNum) : (s.setScreen f).reg r = s.reg r := rfl
@[simp] theorem setScreen_readByte (f : Framebuffer) (addr : Nat) : (s.setScreen f).readByte addr = s.readByte addr := rfl
@[simp] theorem setScreen_fetch (f : Framebuffer) : (s.setScreen f).fetch = s.fetch := rfl
@[simp] theorem setScreen_keyDown (f : Framebuffer) (k : Nat) : (s.setScreen f).keyDown k = s.keyDown k := rfl

/-! After `push`. -/
@[simp] theorem push_v (a : Word) : (s.push a).v = s.v := rfl
@[simp] theorem push_index (a : Word) : (s.push a).index = s.index := rfl
@[simp] theorem push_pc (a : Word) : (s.push a).pc = s.pc := rfl
@[simp] theorem push_stack (a : Word) : (s.push a).stack = s.stack.set s.sp a := rfl
@[simp] theorem push_sp (a : Word) : (s.push a).sp = s.sp + 1 := rfl
@[simp] theorem push_dt (a : Word) : (s.push a).dt = s.dt := rfl
@[simp] theorem push_st (a : Word) : (s.push a).st = s.st := rfl
@[simp] theorem push_fb (a : Word) : (s.push a).fb = s.fb := rfl
@[simp] theorem push_keys (a : Word) : (s.push a).keys = s.keys := rfl
@[simp] theorem push_dirty (a : Word) : (s.push a).dirty = s.dirty := rfl
@[simp] theorem push_tdiv (a : Word) : (s.push a).tdiv = s.tdiv := rfl
@[simp] theorem push_halt (a : Word) : (s.push a).halt = s.halt := rfl
@[simp] theorem push_cause (a : Word) : (s.push a).cause = s.cause := rfl
@[simp] theorem push_epc (a : Word) : (s.push a).epc = s.epc := rfl
@[simp] theorem push_eword (a : Word) : (s.push a).eword = s.eword := rfl
@[simp] theorem push_eaddr (a : Word) : (s.push a).eaddr = s.eaddr := rfl
@[simp] theorem push_mem (a : Word) : (s.push a).mem = s.mem := rfl
@[simp] theorem push_config (a : Word) : (s.push a).config = s.config := rfl
@[simp] theorem push_draws (a : Word) : (s.push a).draws = s.draws := rfl
@[simp] theorem push_emitted (a : Word) : (s.push a).emitted = s.emitted := rfl
@[simp] theorem push_reg (a : Word) (r : RegNum) : (s.push a).reg r = s.reg r := rfl
@[simp] theorem push_readByte (a : Word) (addr : Nat) : (s.push a).readByte addr = s.readByte addr := rfl
@[simp] theorem push_pixel (a : Word) (off : Nat) : (s.push a).pixel off = s.pixel off := rfl
@[simp] theorem push_fetch (a : Word) : (s.push a).fetch = s.fetch := rfl
@[simp] theorem push_keyDown (a : Word) (k : Nat) : (s.push a).keyDown k = s.keyDown k := rfl

/-! After `dropTop`. -/
@[simp] theorem dropTop_v : s.dropTop.v = s.v := rfl
@[simp] theorem dropTop_index : s.dropTop.index = s.index := rfl
@[simp] theorem dropTop_pc : s.dropTop.pc = s.pc := rfl
@[simp] theorem dropTop_stack : s.dropTop.stack = s.stack := rfl
@[simp] theorem dropTop_sp : s.dropTop.sp = s.sp - 1 := rfl
@[simp] theorem dropTop_dt : s.dropTop.dt = s.dt := rfl
@[simp] theorem dropTop_st : s.dropTop.st = s.st := rfl
@[simp] theorem dropTop_fb : s.dropTop.fb = s.fb := rfl
@[simp] theorem dropTop_keys : s.dropTop.keys = s.keys := rfl
@[simp] theorem dropTop_dirty : s.dropTop.dirty = s.dirty := rfl
@[simp] theorem dropTop_tdiv : s.dropTop.tdiv = s.tdiv := rfl
@[simp] theorem dropTop_halt : s.dropTop.halt = s.halt := rfl
@[simp] theorem dropTop_cause : s.dropTop.cause = s.cause := rfl
@[simp] theorem dropTop_epc : s.dropTop.epc = s.epc := rfl
@[simp] theorem dropTop_eword : s.dropTop.eword = s.eword := rfl
@[simp] theorem dropTop_eaddr : s.dropTop.eaddr = s.eaddr := rfl
@[simp] theorem dropTop_mem : s.dropTop.mem = s.mem := rfl
@[simp] theorem dropTop_config : s.dropTop.config = s.config := rfl
@[simp] theorem dropTop_draws : s.dropTop.draws = s.draws := rfl
@[simp] theorem dropTop_emitted : s.dropTop.emitted = s.emitted := rfl
@[simp] theorem dropTop_reg (r : RegNum) : s.dropTop.reg r = s.reg r := rfl
@[simp] theorem dropTop_readByte (addr : Nat) : s.dropTop.readByte addr = s.readByte addr := rfl
@[simp] theorem dropTop_pixel (off : Nat) : s.dropTop.pixel off = s.pixel off := rfl
@[simp] theorem dropTop_fetch : s.dropTop.fetch = s.fetch := rfl
@[simp] theorem dropTop_keyDown (k : Nat) : s.dropTop.keyDown k = s.keyDown k := rfl

/-! After `enterFault`. -/
@[simp] theorem enterFault_v (c : Cause) (a : Word) : (s.enterFault c a).v = s.v := rfl
@[simp] theorem enterFault_index (c : Cause) (a : Word) : (s.enterFault c a).index = s.index := rfl
@[simp] theorem enterFault_pc (c : Cause) (a : Word) : (s.enterFault c a).pc = s.pc := rfl
@[simp] theorem enterFault_stack (c : Cause) (a : Word) : (s.enterFault c a).stack = s.stack := rfl
@[simp] theorem enterFault_sp (c : Cause) (a : Word) : (s.enterFault c a).sp = s.sp := rfl
@[simp] theorem enterFault_dt (c : Cause) (a : Word) : (s.enterFault c a).dt = s.dt := rfl
@[simp] theorem enterFault_st (c : Cause) (a : Word) : (s.enterFault c a).st = s.st := rfl
@[simp] theorem enterFault_fb (c : Cause) (a : Word) : (s.enterFault c a).fb = s.fb := rfl
@[simp] theorem enterFault_keys (c : Cause) (a : Word) : (s.enterFault c a).keys = s.keys := rfl
@[simp] theorem enterFault_dirty (c : Cause) (a : Word) : (s.enterFault c a).dirty = s.dirty := rfl
@[simp] theorem enterFault_tdiv (c : Cause) (a : Word) : (s.enterFault c a).tdiv = s.tdiv := rfl
@[simp] theorem enterFault_halt (c : Cause) (a : Word) : (s.enterFault c a).halt = true := rfl
@[simp] theorem enterFault_cause (c : Cause) (a : Word) : (s.enterFault c a).cause = c := rfl
@[simp] theorem enterFault_epc (c : Cause) (a : Word) : (s.enterFault c a).epc = s.pc := rfl
@[simp] theorem enterFault_eword (c : Cause) (a : Word) : (s.enterFault c a).eword = s.fetch.getD 0 := rfl
@[simp] theorem enterFault_eaddr (c : Cause) (a : Word) : (s.enterFault c a).eaddr = a := rfl
@[simp] theorem enterFault_mem (c : Cause) (a : Word) : (s.enterFault c a).mem = s.mem := rfl
@[simp] theorem enterFault_config (c : Cause) (a : Word) : (s.enterFault c a).config = s.config := rfl
@[simp] theorem enterFault_draws (c : Cause) (a : Word) : (s.enterFault c a).draws = s.draws := rfl
@[simp] theorem enterFault_emitted (c : Cause) (a : Word) : (s.enterFault c a).emitted = s.emitted := rfl
@[simp] theorem enterFault_reg (c : Cause) (a : Word) (r : RegNum) : (s.enterFault c a).reg r = s.reg r := rfl
@[simp] theorem enterFault_readByte (c : Cause) (a : Word) (addr : Nat) : (s.enterFault c a).readByte addr = s.readByte addr := rfl
@[simp] theorem enterFault_pixel (c : Cause) (a : Word) (off : Nat) : (s.enterFault c a).pixel off = s.pixel off := rfl
@[simp] theorem enterFault_fetch (c : Cause) (a : Word) : (s.enterFault c a).fetch = s.fetch := rfl
@[simp] theorem enterFault_keyDown (c : Cause) (a : Word) (k : Nat) : (s.enterFault c a).keyDown k = s.keyDown k := rfl

/-! After `writeByte`. -/
@[simp] theorem writeByte_v (a : Nat) (b : Byte) : (s.writeByte a b).v = s.v := rfl
@[simp] theorem writeByte_index (a : Nat) (b : Byte) : (s.writeByte a b).index = s.index := rfl
@[simp] theorem writeByte_pc (a : Nat) (b : Byte) : (s.writeByte a b).pc = s.pc := rfl
@[simp] theorem writeByte_stack (a : Nat) (b : Byte) : (s.writeByte a b).stack = s.stack := rfl
@[simp] theorem writeByte_sp (a : Nat) (b : Byte) : (s.writeByte a b).sp = s.sp := rfl
@[simp] theorem writeByte_dt (a : Nat) (b : Byte) : (s.writeByte a b).dt = s.dt := rfl
@[simp] theorem writeByte_st (a : Nat) (b : Byte) : (s.writeByte a b).st = s.st := rfl
@[simp] theorem writeByte_fb (a : Nat) (b : Byte) : (s.writeByte a b).fb = s.fb := rfl
@[simp] theorem writeByte_keys (a : Nat) (b : Byte) : (s.writeByte a b).keys = s.keys := rfl
@[simp] theorem writeByte_dirty (a : Nat) (b : Byte) : (s.writeByte a b).dirty = s.dirty := rfl
@[simp] theorem writeByte_tdiv (a : Nat) (b : Byte) : (s.writeByte a b).tdiv = s.tdiv := rfl
@[simp] theorem writeByte_halt (a : Nat) (b : Byte) : (s.writeByte a b).halt = s.halt := rfl
@[simp] theorem writeByte_cause (a : Nat) (b : Byte) : (s.writeByte a b).cause = s.cause := rfl
@[simp] theorem writeByte_epc (a : Nat) (b : Byte) : (s.writeByte a b).epc = s.epc := rfl
@[simp] theorem writeByte_eword (a : Nat) (b : Byte) : (s.writeByte a b).eword = s.eword := rfl
@[simp] theorem writeByte_eaddr (a : Nat) (b : Byte) : (s.writeByte a b).eaddr = s.eaddr := rfl
@[simp] theorem writeByte_mem (a : Nat) (b : Byte) : (s.writeByte a b).mem = s.mem.write s.config.glyphRom a b := rfl
@[simp] theorem writeByte_config (a : Nat) (b : Byte) : (s.writeByte a b).config = s.config := rfl
@[simp] theorem writeByte_draws (a : Nat) (b : Byte) : (s.writeByte a b).draws = s.draws := rfl
@[simp] theorem writeByte_emitted (a : Nat) (b : Byte) : (s.writeByte a b).emitted = s.emitted := rfl
@[simp] theorem writeByte_reg (a : Nat) (b : Byte) (r : RegNum) : (s.writeByte a b).reg r = s.reg r := rfl
@[simp] theorem writeByte_pixel (a : Nat) (b : Byte) (off : Nat) : (s.writeByte a b).pixel off = s.pixel off := rfl
@[simp] theorem writeByte_keyDown (a : Nat) (b : Byte) (k : Nat) : (s.writeByte a b).keyDown k = s.keyDown k := rfl

/-! After `countDraw`. -/
@[simp] theorem countDraw_v : s.countDraw.v = s.v := rfl
@[simp] theorem countDraw_index : s.countDraw.index = s.index := rfl
@[simp] theorem countDraw_pc : s.countDraw.pc = s.pc := rfl
@[simp] theorem countDraw_stack : s.countDraw.stack = s.stack := rfl
@[simp] theorem countDraw_sp : s.countDraw.sp = s.sp := rfl
@[simp] theorem countDraw_dt : s.countDraw.dt = s.dt := rfl
@[simp] theorem countDraw_st : s.countDraw.st = s.st := rfl
@[simp] theorem countDraw_fb : s.countDraw.fb = s.fb := rfl
@[simp] theorem countDraw_keys : s.countDraw.keys = s.keys := rfl
@[simp] theorem countDraw_dirty : s.countDraw.dirty = s.dirty := rfl
@[simp] theorem countDraw_tdiv : s.countDraw.tdiv = s.tdiv := rfl
@[simp] theorem countDraw_halt : s.countDraw.halt = s.halt := rfl
@[simp] theorem countDraw_cause : s.countDraw.cause = s.cause := rfl
@[simp] theorem countDraw_epc : s.countDraw.epc = s.epc := rfl
@[simp] theorem countDraw_eword : s.countDraw.eword = s.eword := rfl
@[simp] theorem countDraw_eaddr : s.countDraw.eaddr = s.eaddr := rfl
@[simp] theorem countDraw_mem : s.countDraw.mem = s.mem := rfl
@[simp] theorem countDraw_config : s.countDraw.config = s.config := rfl
@[simp] theorem countDraw_draws : s.countDraw.draws = s.draws + 1 := rfl
@[simp] theorem countDraw_emitted : s.countDraw.emitted = s.emitted := rfl
@[simp] theorem countDraw_reg (r : RegNum) : s.countDraw.reg r = s.reg r := rfl
@[simp] theorem countDraw_readByte (addr : Nat) : s.countDraw.readByte addr = s.readByte addr := rfl
@[simp] theorem countDraw_pixel (off : Nat) : s.countDraw.pixel off = s.pixel off := rfl
@[simp] theorem countDraw_fetch : s.countDraw.fetch = s.fetch := rfl
@[simp] theorem countDraw_keyDown (k : Nat) : s.countDraw.keyDown k = s.keyDown k := rfl

/-! After `setKeys`. -/
@[simp] theorem setKeys_v (k : BitVec 16) : (s.setKeys k).v = s.v := rfl
@[simp] theorem setKeys_index (k : BitVec 16) : (s.setKeys k).index = s.index := rfl
@[simp] theorem setKeys_pc (k : BitVec 16) : (s.setKeys k).pc = s.pc := rfl
@[simp] theorem setKeys_stack (k : BitVec 16) : (s.setKeys k).stack = s.stack := rfl
@[simp] theorem setKeys_sp (k : BitVec 16) : (s.setKeys k).sp = s.sp := rfl
@[simp] theorem setKeys_dt (k : BitVec 16) : (s.setKeys k).dt = s.dt := rfl
@[simp] theorem setKeys_st (k : BitVec 16) : (s.setKeys k).st = s.st := rfl
@[simp] theorem setKeys_fb (k : BitVec 16) : (s.setKeys k).fb = s.fb := rfl
@[simp] theorem setKeys_keys (k : BitVec 16) : (s.setKeys k).keys = k := rfl
@[simp] theorem setKeys_dirty (k : BitVec 16) : (s.setKeys k).dirty = s.dirty := rfl
@[simp] theorem setKeys_tdiv (k : BitVec 16) : (s.setKeys k).tdiv = s.tdiv := rfl
@[simp] theorem setKeys_halt (k : BitVec 16) : (s.setKeys k).halt = s.halt := rfl
@[simp] theorem setKeys_cause (k : BitVec 16) : (s.setKeys k).cause = s.cause := rfl
@[simp] theorem setKeys_epc (k : BitVec 16) : (s.setKeys k).epc = s.epc := rfl
@[simp] theorem setKeys_eword (k : BitVec 16) : (s.setKeys k).eword = s.eword := rfl
@[simp] theorem setKeys_eaddr (k : BitVec 16) : (s.setKeys k).eaddr = s.eaddr := rfl
@[simp] theorem setKeys_mem (k : BitVec 16) : (s.setKeys k).mem = s.mem := rfl
@[simp] theorem setKeys_config (k : BitVec 16) : (s.setKeys k).config = s.config := rfl
@[simp] theorem setKeys_draws (k : BitVec 16) : (s.setKeys k).draws = s.draws := rfl
@[simp] theorem setKeys_emitted (k : BitVec 16) : (s.setKeys k).emitted = s.emitted := rfl
@[simp] theorem setKeys_reg (k : BitVec 16) (r : RegNum) : (s.setKeys k).reg r = s.reg r := rfl
@[simp] theorem setKeys_readByte (k : BitVec 16) (addr : Nat) : (s.setKeys k).readByte addr = s.readByte addr := rfl
@[simp] theorem setKeys_pixel (k : BitVec 16) (off : Nat) : (s.setKeys k).pixel off = s.pixel off := rfl
@[simp] theorem setKeys_fetch (k : BitVec 16) : (s.setKeys k).fetch = s.fetch := rfl

end State
/-! After a move of the host on a session. -/
section sessionMoves
variable (h : Session) (s : State)
@[simp] theorem Session.setState_state : (h.setState s).state = s := rfl
@[simp] theorem Session.setState_cyclesLeft : (h.setState s).cyclesLeft = h.cyclesLeft := rfl
@[simp] theorem Session.setState_beforeTick : (h.setState s).beforeTick = h.beforeTick := rfl
@[simp] theorem Session.setState_beforeCycle : (h.setState s).beforeCycle = h.beforeCycle := rfl
@[simp] theorem Session.reset_state : h.reset.state = h.state.hostReset := rfl
@[simp] theorem Session.reset_cyclesLeft : h.reset.cyclesLeft = h.cyclesLeft := rfl
@[simp] theorem Session.reset_beforeTick : h.reset.beforeTick = true := rfl
@[simp] theorem Session.reset_beforeCycle : h.reset.beforeCycle = true := rfl
end sessionMoves

end Sys2Proof.Machine
end

