-- ==== Sys2Proof/Laws/Memory.lean ====
section
/-! SUPPORT. Memory: a read gives the last write, a write leaves every other byte, and every memory operation keeps the
canonical form. -/

namespace Sys2Proof.Machine

theorem Memory.find_insert (m : Memory) (a : Nat) (v : Byte) (b : Nat) :
    (Memory.insert m a v).find b = if b = a then some v else m.find b := by
  induction m with
  | nil => simp only [Memory.insert, Memory.find, eq_comm]
  | cons c rest ih =>
    obtain ⟨k, w⟩ := c
    by_cases hka : k < a
    · have hne : k ≠ a := by omega
      by_cases hb : k = b
      · subst hb; simp [Memory.insert, Memory.find, hka, hne]
      · simp [Memory.insert, Memory.find, hka, hb, ih]
    · by_cases hk : k = a
      · subst hk
        by_cases hb : b = k
        · subst hb; simp [Memory.insert, Memory.find]
        · simp [Memory.insert, Memory.find, hb, Ne.symm hb]
      · by_cases hb : b = a
        · subst hb; simp [Memory.insert, Memory.find, hka, hk]
        · simp [Memory.insert, Memory.find, hka, hk, hb, Ne.symm hb]

theorem Memory.find_erase (m : Memory) (a b : Nat) :
    (m.erase a).find b = if b = a then none else m.find b := by
  induction m with
  | nil => simp [Memory.erase, Memory.find]
  | cons c rest ih =>
    obtain ⟨k, w⟩ := c
    simp only [Memory.erase, List.filter_cons] at ih ⊢
    by_cases hk : k = a
    · subst hk
      by_cases hb : b = k
      · subst hb; simpa using ih
      · simpa [hb, Memory.find, Ne.symm hb] using ih
    · by_cases hb : k = b
      · subst hb; simp [hk, Memory.find]
      · simpa [hk, Memory.find, hb] using ih

/-- A read after a write (R71b): the written value at its address, what was there before anywhere else. -/
theorem Memory.read_write (rom : Vector Byte 80) (m : Memory) (a : Nat) (v : Byte) (b : Nat) :
    (m.write rom a v).read rom b = if b = a ∧ a < memSize then v else m.read rom b := by
  unfold Memory.write
  split
  next h => simp [Nat.not_lt.mpr h]
  next h =>
    have h' : a < memSize := Nat.lt_of_not_le h
    split
    next hv =>
      by_cases hb : b = a
      · subst hb; simp [Memory.read, Memory.find_erase, h', hv]
      · simp [Memory.read, Memory.find_erase, hb]
    next hv => by_cases hb : b = a <;> simp [Memory.read, Memory.find_insert, hb, h']

theorem Memory.wfFrom_mono {rom : Vector Byte 80} {lo hi : Nat} (h : lo ≤ hi) :
    ∀ {m : Memory}, m.wfFrom rom hi = true → m.wfFrom rom lo = true
  | [], _ => rfl
  | (a, v) :: rest, hm => by
    simp only [Memory.wfFrom, Bool.and_eq_true, decide_eq_true_eq] at hm ⊢
    exact ⟨⟨⟨by omega, hm.1.1.2⟩, hm.1.2⟩, hm.2⟩

theorem Memory.wfFrom_insert {rom : Vector Byte 80} {a : Nat} {v : Byte} (ha : a < memSize)
    (hv : v ≠ Memory.resetByte rom a) :
    ∀ {m : Memory} {lo : Nat}, lo ≤ a → m.wfFrom rom lo = true → (m.insert a v).wfFrom rom lo = true
  | [], lo, hlo, _ => by simp [Memory.insert, Memory.wfFrom, hlo, ha, hv]
  | (b, w) :: rest, lo, hlo, hm => by
    simp only [Memory.wfFrom, Bool.and_eq_true, decide_eq_true_eq] at hm
    unfold Memory.insert
    split
    next hlt =>
      simp only [Memory.wfFrom, Bool.and_eq_true, decide_eq_true_eq]
      exact ⟨hm.1, Memory.wfFrom_insert ha hv hlt hm.2⟩
    next hlt =>
      split
      next heq =>
        subst heq
        simpa [Memory.wfFrom, hlo, ha, hv] using hm.2
      next hne =>
        have : a + 1 ≤ b := by omega
        simp only [Memory.wfFrom, Bool.and_eq_true, decide_eq_true_eq, bne_iff_ne]
        exact ⟨⟨⟨hlo, ha⟩, hv⟩, ⟨⟨this, hm.1.1.2⟩, by simpa using hm.1.2⟩, hm.2⟩

theorem Memory.wfFrom_erase {rom : Vector Byte 80} {a : Nat} :
    ∀ {m : Memory} {lo : Nat}, m.wfFrom rom lo = true → (m.erase a).wfFrom rom lo = true
  | [], _, _ => rfl
  | (b, w) :: rest, lo, hm => by
    simp only [Memory.wfFrom, Bool.and_eq_true, decide_eq_true_eq] at hm
    have ih := Memory.wfFrom_erase (a := a) hm.2
    simp only [Memory.erase] at ih
    by_cases hb : b = a
    · simpa [Memory.erase, List.filter_cons, hb] using
        Memory.wfFrom_mono (hi := b + 1) (by omega) ih
    · simp only [Memory.erase, List.filter_cons, bne_iff_ne, ne_eq, hb, not_false_eq_true, if_true,
        Memory.wfFrom, Bool.and_eq_true, decide_eq_true_eq]
      exact ⟨by simpa using hm.1, ih⟩

/-- A write keeps the canonical form. -/
theorem Memory.wf_write {rom : Vector Byte 80} {m : Memory} (a : Nat) (v : Byte) (hm : m.wf rom = true) :
    (m.write rom a v).wf rom = true := by
  unfold Memory.write
  split
  · exact hm
  · split
    · exact Memory.wfFrom_erase hm
    · next h hv => exact Memory.wfFrom_insert (Nat.lt_of_not_le h) hv (Nat.zero_le _) hm

/-- The reset memory is in canonical form. -/
theorem State.reset_mem_wf : State.reset.mem.wf State.reset.config.glyphRom = true := rfl

/-- The state's read after a write. -/
theorem State.readByte_writeByte (s : State) (a : Nat) (v : Byte) (b : Nat) :
    (s.writeByte a v).readByte b = if b = a ∧ a < memSize then v else s.readByte b :=
  Memory.read_write _ _ _ _ _

/-- Storing bytes changes nothing but MEM. -/
theorem State.storeBytes_eq (s : State) (a : Nat) (bs : List Byte) :
    s.storeBytes a bs = { s with mem := (s.storeBytes a bs).mem } := by
  induction bs generalizing s a with
  | nil => rfl
  | cons b bs ih => rw [State.storeBytes, ih]; rfl

section storeFields
variable (s : State) (a : Nat) (bs : List Byte)
@[simp] theorem State.storeBytes_v : (s.storeBytes a bs).v = s.v := by rw [State.storeBytes_eq]
@[simp] theorem State.storeBytes_index : (s.storeBytes a bs).index = s.index := by rw [State.storeBytes_eq]
@[simp] theorem State.storeBytes_pc : (s.storeBytes a bs).pc = s.pc := by rw [State.storeBytes_eq]
@[simp] theorem State.storeBytes_stack : (s.storeBytes a bs).stack = s.stack := by rw [State.storeBytes_eq]
@[simp] theorem State.storeBytes_sp : (s.storeBytes a bs).sp = s.sp := by rw [State.storeBytes_eq]
@[simp] theorem State.storeBytes_dt : (s.storeBytes a bs).dt = s.dt := by rw [State.storeBytes_eq]
@[simp] theorem State.storeBytes_st : (s.storeBytes a bs).st = s.st := by rw [State.storeBytes_eq]
@[simp] theorem State.storeBytes_fb : (s.storeBytes a bs).fb = s.fb := by rw [State.storeBytes_eq]
@[simp] theorem State.storeBytes_keys : (s.storeBytes a bs).keys = s.keys := by rw [State.storeBytes_eq]
@[simp] theorem State.storeBytes_dirty : (s.storeBytes a bs).dirty = s.dirty := by rw [State.storeBytes_eq]
@[simp] theorem State.storeBytes_tdiv : (s.storeBytes a bs).tdiv = s.tdiv := by rw [State.storeBytes_eq]
@[simp] theorem State.storeBytes_halt : (s.storeBytes a bs).halt = s.halt := by rw [State.storeBytes_eq]
@[simp] theorem State.storeBytes_cause : (s.storeBytes a bs).cause = s.cause := by rw [State.storeBytes_eq]
@[simp] theorem State.storeBytes_epc : (s.storeBytes a bs).epc = s.epc := by rw [State.storeBytes_eq]
@[simp] theorem State.storeBytes_eword : (s.storeBytes a bs).eword = s.eword := by rw [State.storeBytes_eq]
@[simp] theorem State.storeBytes_eaddr : (s.storeBytes a bs).eaddr = s.eaddr := by rw [State.storeBytes_eq]
@[simp] theorem State.storeBytes_config : (s.storeBytes a bs).config = s.config := by rw [State.storeBytes_eq]
@[simp] theorem State.storeBytes_draws : (s.storeBytes a bs).draws = s.draws := by rw [State.storeBytes_eq]
@[simp] theorem State.storeBytes_emitted : (s.storeBytes a bs).emitted = s.emitted := by rw [State.storeBytes_eq]
@[simp] theorem State.storeBytes_reg (r : RegNum) : (s.storeBytes a bs).reg r = s.reg r := by rw [State.storeBytes_eq]; rfl
@[simp] theorem State.storeBytes_pixel (off : Nat) : (s.storeBytes a bs).pixel off = s.pixel off := by
  rw [State.storeBytes_eq]; rfl
end storeFields

/-- The one lemma of `storeBytes`: inside the stored range, which lies in MEM, the stored byte; outside, what was there. -/
theorem State.readByte_storeBytes (s : State) (a : Nat) (bs : List Byte) (h : a + bs.length ≤ memSize) (b : Nat) :
    (s.storeBytes a bs).readByte b =
      if h : a ≤ b ∧ b < a + bs.length then bs[b - a]'(by omega) else s.readByte b := by
  induction bs generalizing s a with
  | nil => simp [State.storeBytes]
  | cons x xs ih =>
    simp only [List.length_cons] at h
    rw [State.storeBytes, ih _ _ (by omega)]
    by_cases hb : b = a
    · subst hb
      simp [State.readByte_writeByte]; omega
    · by_cases hin : a + 1 ≤ b ∧ b < a + 1 + xs.length
      · have h2 : a ≤ b ∧ b < a + (x :: xs).length := by simp; omega
        have hsub : b - a = (b - (a + 1)) + 1 := by omega
        simp only [hin, h2, and_self, dite_true]
        simp [hsub]
      · have h2 : ¬(a ≤ b ∧ b < a + (x :: xs).length) := by simp; omega
        simp only [hin, h2, dite_false]
        simp [State.readByte_writeByte, hb]

/-- A byte outside the stored range reads as before, whether or not the range lies in MEM. -/
theorem State.readByte_storeBytes_outside (s : State) (a : Nat) (bs : List Byte) (b : Nat)
    (h : b < a ∨ a + bs.length ≤ b) : (s.storeBytes a bs).readByte b = s.readByte b := by
  induction bs generalizing s a with
  | nil => rfl
  | cons x xs ih =>
    simp only [List.length_cons] at h
    rw [State.storeBytes, ih _ _ (by omega), State.readByte_writeByte]
    simp; omega

/-- Storing bytes keeps the canonical form. -/
theorem State.storeBytes_wf (s : State) (a : Nat) (bs : List Byte) (h : s.mem.wf s.config.glyphRom = true) :
    (s.storeBytes a bs).mem.wf s.config.glyphRom = true := by
  induction bs generalizing s a with
  | nil => exact h
  | cons b bs ih => exact ih (s.writeByte a b) (a + 1) (Memory.wf_write a b h)

/-- The n bytes from `a` on, one by one. -/
theorem State.bytesAt_length (s : State) (a n : Nat) : (s.bytesAt a n).length = n := by
  induction n generalizing a with
  | zero => rfl
  | succ n ih => simp [State.bytesAt, ih]

theorem State.getElem_bytesAt (s : State) (a n k : Nat) (h : k < (s.bytesAt a n).length) :
    (s.bytesAt a n)[k] = s.readByte (a + k) := by
  induction n generalizing a k with
  | zero => simp [State.bytesAt] at h
  | succ n ih =>
    cases k with
    | zero => rfl
    | succ k =>
      simp only [State.bytesAt, List.getElem_cons_succ]
      rw [ih]; congr 1; omega

end Sys2Proof.Machine
end

