-- ==== Sys2Proof/Laws/Registers.lean ====
section
/-! SUPPORT. Registers: what each register reads after a register write, a register load, and what a dump stores. -/

namespace Sys2Proof.Machine

/-- V[y] after V[x] <- b (R21). -/
@[simp] theorem State.reg_setReg (s : State) (x y : RegNum) (b : Byte) :
    (s.setReg x b).reg y = if y = x then b else s.reg y := by
  simp only [State.reg, State.setReg, Vector.getElem_set, BitVec.toNat_inj, eq_comm]

/-- V[r] after a register load (R223). -/
@[simp] theorem State.reg_loadRegs (s : State) (x r : RegNum) (a : Nat) :
    (s.loadRegs x a).reg r = if r.toNat ≤ x.toNat then s.readByte (a + r.toNat) else s.reg r := by
  simp [State.reg, State.loadRegs]

/-- A dump stores X + 1 bytes (R222). -/
@[simp] theorem State.regsUpTo_length (s : State) (x : RegNum) : (s.regsUpTo x).length = x.toNat + 1 := by
  have := x.isLt
  simp [State.regsUpTo]; omega

/-- The k-th byte of a dump is V[k] (R222). -/
theorem State.getElem_regsUpTo (s : State) (x : RegNum) (k : Nat) (h : k < (s.regsUpTo x).length) :
    (s.regsUpTo x)[k] = s.reg (BitVec.ofNat 4 k) := by
  have hk : k < 16 := by have := x.isLt; simp at h; omega
  simp [State.regsUpTo, State.reg, Nat.mod_eq_of_lt hk]

/-- Two register files that agree on every register number are equal. -/
theorem State.v_ext {s t : State} (h : ∀ r, t.reg r = s.reg r) : t.v = s.v := by
  refine Vector.ext fun i hi => ?_
  simpa [State.reg, Nat.mod_eq_of_lt hi] using h (BitVec.ofNat 4 i)

end Sys2Proof.Machine
end

