-- ==== Sys2Proof/Laws/Cycle.lean ====
section
/-! SUPPORT. Each shared operation of a cycle, said once: the fetch, the range and key checks, the stack instructions, the
timer bookkeeping, the end of a cycle, and everything one step can do. -/

namespace Sys2Proof.Machine

/-! The fetch (R61, R122). -/

/-- Nothing is fetched exactly when PC + 1 > 4095. -/
theorem State.fetch_eq_none (s : State) : s.fetch = none ↔ 4095 < s.pc.toNat + 1 := by
  unfold State.fetch; split <;> simp_all

/-- A fetched word: PC is in range and the word is its two bytes. -/
theorem State.fetch_eq_some (s : State) (w : Word) :
    s.fetch = some w ↔
      s.pc.toNat + 1 ≤ 4095 ∧ w = wordOfBytes (s.readByte s.pc.toNat) (s.readByte (s.pc.toNat + 1)) := by
  unfold State.fetch
  split
  · simp; omega
  · simp [eq_comm]; omega

/-- A fetch depends on PC and on what memory reads as, on nothing else. -/
theorem State.fetch_congr {s t : State} (hp : t.pc = s.pc) (hm : ∀ a, t.readByte a = s.readByte a) :
    t.fetch = s.fetch := by
  simp only [State.fetch, hp, hm]

/-- A word placed at a PC that can be fetched from is the next word fetched. -/
theorem State.fetch_placeWord (s : State) (w : Word) (h : s.pc.toNat + 1 ≤ 4095) :
    (s.placeWord (bytesOfWord w)).fetch = some w := by
  have hlen : s.pc.toNat + (bytesOfWord w).length ≤ memSize := by simp [bytesOfWord, memSize]; omega
  have h' : ¬4095 < s.pc.toNat + 1 := by omega
  simp only [State.placeWord, h', if_false]
  rw [State.fetch_eq_some]
  refine ⟨by simpa using h, ?_⟩
  rw [State.readByte_storeBytes _ _ _ hlen, State.readByte_storeBytes _ _ _ hlen]
  simp [bytesOfWord, wordOfBytes_bytesOfWord]

/-! The checks (R63, R237) and the handlers that branch. -/

/-- The range check as arithmetic. -/
theorem State.outOfRange_iff (s : State) (len : Nat) :
    s.outOfRange len = true ↔ 0 < len ∧ 4095 < s.index.toNat + len - 1 := by
  simp [State.outOfRange]

/-- A guarded data access answers MEM_OOB or its effect. -/
theorem State.guardRange_eq_next {s t u : State} {len : Nat} :
    s.guardRange len t = .next u ↔
      (s.outOfRange len = true ∧ u = s.enterFault .memOob s.offendingAddress) ∨ (s.outOfRange len = false ∧ u = t) := by
  unfold State.guardRange
  cases s.outOfRange len <;> simp [eq_comm]

/-- A guarded key skip answers KEY_OOB or the skip. -/
theorem State.guardKey_eq_next {s u : State} {x : RegNum} {skip : Bool} :
    s.guardKey x skip = .next u ↔
      (15 < (s.reg x).toNat ∧ u = s.enterFault .keyOob (byteOperand (s.reg x))) ∨
      ((s.reg x).toNat ≤ 15 ∧ u = s.skipIf skip) := by
  unfold State.guardKey
  by_cases h : 15 < (s.reg x).toNat
  · have : ¬(s.reg x).toNat ≤ 15 := by omega
    simp [h, this, eq_comm]
  · have : (s.reg x).toNat ≤ 15 := by omega
    simp [h, this, eq_comm]

/-- RET answers STACK_UNDERFLOW or a return to 2 after the top entry. -/
theorem execRet_eq_next {s u : State} :
    execRet s = .next u ↔
      (s.sp = 0 ∧ u = s.enterFault .stackUnderflow 0) ∨
      (s.sp ≠ 0 ∧ ∃ r, s.stack[s.sp - 1]? = some r ∧ u = s.dropTop.setPc (r + 2)) := by
  unfold execRet
  by_cases h : s.sp = 0
  · simp [h, eq_comm]
  · cases hr : s.stack[s.sp - 1]? <;> simp [h, eq_comm]

/-- CALL answers STACK_OVERFLOW or a push of PC and a jump. -/
theorem execCall_eq_next {nnn : BitVec 12} {s u : State} :
    execCall nnn s = .next u ↔
      (s.sp = s.config.stackDepth ∧ u = s.enterFault .stackOverflow 0) ∨
      (s.sp ≠ s.config.stackDepth ∧ s.sp < s.stack.length ∧ u = (s.push s.pc).setPc (addrOperand nnn)) := by
  unfold execCall
  by_cases h : s.sp = s.config.stackDepth
  · simp [h, eq_comm]
  · by_cases hl : s.stack.length ≤ s.sp
    · have : ¬s.sp < s.stack.length := by omega
      simp [h, hl]
    · have : s.sp < s.stack.length := by omega
      simp [h, hl, this, eq_comm]

/-- No key is down exactly when KEY is 0. -/
theorem State.firstKey_eq_none (s : State) : s.firstKey = none ↔ s.keys = 0 := by
  simp only [State.firstKey, List.find?_range_eq_none, Bool.not_eq_true', State.keyDown]
  constructor
  · intro h
    refine BitVec.eq_of_getLsbD_eq fun i hi => ?_
    simpa using h i hi
  · intro h i _
    simp [h]

/-- The key a wait takes is down, and no lower one is (R207). -/
theorem State.firstKey_eq_some (s : State) (k : Nat) :
    s.firstKey = some k ↔ k < 16 ∧ s.keyDown k = true ∧ ∀ j, j < k → s.keyDown j = false := by
  simp only [State.firstKey, List.find?_range_eq_some, Bool.not_eq_true', List.mem_range]
  tauto

/-- LD Vx,K answers the state itself or the least pressed key. -/
theorem execLdVxK_eq_next {x : RegNum} {s u : State} :
    execLdVxK x s = .next u ↔
      (s.keys = 0 ∧ u = s) ∨ ∃ k, s.firstKey = some k ∧ u = (s.setReg x (BitVec.ofNat 8 k)).advance := by
  unfold execLdVxK
  rcases h : s.firstKey with _ | k
  · simp only [(s.firstKey_eq_none).1 h, true_and, Host.Outcome.next.injEq, reduceCtorEq, false_and, exists_false, or_false]
    exact eq_comm
  · have : s.keys ≠ 0 := fun hk => by simp [(s.firstKey_eq_none).2 hk] at h
    simp only [this, false_and, false_or, Host.Outcome.next.injEq, Option.some.injEq, exists_eq_left']
    exact eq_comm

/-! The timer bookkeeping (R244, R245) and the end of a cycle. -/

section bookkeeping
variable (s : State)

/-- TimerBookkeeping as one record update. -/
theorem State.timerBookkeeping_eq :
    s.timerBookkeeping =
      if s.config.cyclesPerTimerDecrement ≤ s.tdiv + 1 then
        { s with
          dt := decremented s.dt
          st := decremented s.st
          tdiv := 0
          emitted := if s.st ≠ 0 ∧ decremented s.st = 0 then .soundEdge :: s.emitted else s.emitted }
      else { s with tdiv := s.tdiv + 1 } := rfl

@[simp] theorem State.timerBookkeeping_v : s.timerBookkeeping.v = s.v := by rw [State.timerBookkeeping_eq]; split <;> rfl
@[simp] theorem State.timerBookkeeping_reg (r : RegNum) : s.timerBookkeeping.reg r = s.reg r := by
  rw [State.timerBookkeeping_eq]; split <;> rfl
@[simp] theorem State.timerBookkeeping_index : s.timerBookkeeping.index = s.index := by
  rw [State.timerBookkeeping_eq]; split <;> rfl
@[simp] theorem State.timerBookkeeping_pc : s.timerBookkeeping.pc = s.pc := by
  rw [State.timerBookkeeping_eq]; split <;> rfl
@[simp] theorem State.timerBookkeeping_stack : s.timerBookkeeping.stack = s.stack := by
  rw [State.timerBookkeeping_eq]; split <;> rfl
@[simp] theorem State.timerBookkeeping_sp : s.timerBookkeeping.sp = s.sp := by
  rw [State.timerBookkeeping_eq]; split <;> rfl
@[simp] theorem State.timerBookkeeping_fb : s.timerBookkeeping.fb = s.fb := by
  rw [State.timerBookkeeping_eq]; split <;> rfl
@[simp] theorem State.timerBookkeeping_pixel (off : Nat) : s.timerBookkeeping.pixel off = s.pixel off := by
  rw [State.timerBookkeeping_eq]; split <;> rfl
@[simp] theorem State.timerBookkeeping_keys : s.timerBookkeeping.keys = s.keys := by
  rw [State.timerBookkeeping_eq]; split <;> rfl
@[simp] theorem State.timerBookkeeping_dirty : s.timerBookkeeping.dirty = s.dirty := by
  rw [State.timerBookkeeping_eq]; split <;> rfl
@[simp] theorem State.timerBookkeeping_halt : s.timerBookkeeping.halt = s.halt := by
  rw [State.timerBookkeeping_eq]; split <;> rfl
@[simp] theorem State.timerBookkeeping_cause : s.timerBookkeeping.cause = s.cause := by
  rw [State.timerBookkeeping_eq]; split <;> rfl
@[simp] theorem State.timerBookkeeping_epc : s.timerBookkeeping.epc = s.epc := by
  rw [State.timerBookkeeping_eq]; split <;> rfl
@[simp] theorem State.timerBookkeeping_eword : s.timerBookkeeping.eword = s.eword := by
  rw [State.timerBookkeeping_eq]; split <;> rfl
@[simp] theorem State.timerBookkeeping_eaddr : s.timerBookkeeping.eaddr = s.eaddr := by
  rw [State.timerBookkeeping_eq]; split <;> rfl
@[simp] theorem State.timerBookkeeping_mem : s.timerBookkeeping.mem = s.mem := by
  rw [State.timerBookkeeping_eq]; split <;> rfl
@[simp] theorem State.timerBookkeeping_config : s.timerBookkeeping.config = s.config := by
  rw [State.timerBookkeeping_eq]; split <;> rfl
@[simp] theorem State.timerBookkeeping_draws : s.timerBookkeeping.draws = s.draws := by
  rw [State.timerBookkeeping_eq]; split <;> rfl
@[simp] theorem State.timerBookkeeping_readByte (a : Nat) : s.timerBookkeeping.readByte a = s.readByte a := by
  rw [State.timerBookkeeping_eq]; split <;> rfl

/-- The cadence counter stays below its bound (R20). -/
theorem State.timerBookkeeping_tdiv_lt (h : 1 ≤ s.config.cyclesPerTimerDecrement) :
    s.timerBookkeeping.tdiv < s.config.cyclesPerTimerDecrement := by
  rw [State.timerBookkeeping_eq]; split <;> simp <;> omega

end bookkeeping

/-- A decrement is subtraction stopped at 0. -/
theorem decremented_toNat (b : Byte) : (decremented b).toNat = b.toNat - 1 := by
  unfold decremented
  split
  · next h => simp [h]
  · next h =>
    have : b.toNat ≠ 0 := fun h0 => h (BitVec.eq_of_toNat_eq (by simpa using h0))
    have := b.isLt
    simp [BitVec.toNat_sub]; omega

/-- The end of a cycle that took a fault changes nothing (R236). -/
theorem State.finishCycle_of_halt {t : State} (p w : Word) (i : Instr) (h : t.halt = true) : t.finishCycle p w i = t := by
  simp [State.finishCycle, h]

/-- The end of any other cycle is the bookkeeping and the trace (R120). -/
theorem State.finishCycle_of_running {t : State} (p w : Word) (i : Instr) (h : t.halt = false) :
    t.finishCycle p w i = t.timerBookkeeping.traceStep p w i := by
  simp [State.finishCycle, h]

/-- Tracing emits and changes nothing else (R127). -/
theorem State.traceStep_eq (s : State) (p w : Word) (i : Instr) :
    s.traceStep p w i = { s with emitted := (s.traceStep p w i).emitted } := by
  unfold State.traceStep; split <;> rfl

/-- The state of a cycle's outcome, where it answers one. -/
theorem stateOf_eq_next {o : Host.Outcome (State × CycleEnd) Fault Refusal} {t : State} :
    stateOf o = .next t ↔ ∃ e, o = .next (t, e) := by
  cases o with
  | next r =>
    obtain ⟨u, e⟩ := r
    simp [stateOf]
  | fault r => simp [stateOf]
  | refused r => simp [stateOf]

/-- How the cycle of a handler that took a fault ended (R236). -/
theorem State.handlerEnd_of_halt {t : State} (h : t.halt = true) : t.handlerEnd = .faulted t.cause := by
  simp [State.handlerEnd, h]

/-- How the cycle of any other handler ended. -/
theorem State.handlerEnd_of_running {t : State} (h : t.halt = false) : t.handlerEnd = .completed := by
  simp [State.handlerEnd, h]

/-- Everything one cycle can do: nothing on a halted CORE (R121), FETCH_OOB (R122), the stall of an unrecognized word (R124),
or one handler and what follows it (R120); and how it then ended. -/
theorem cycle_cases {s t : State} {e : CycleEnd} (h : cycle s = .next (t, e)) :
    s.config.wf = true ∧
    ((s.halt = true ∧ t = s ∧ e = .halted) ∨
     (s.halt = false ∧
      ((s.fetch = none ∧ t = s.enterFault .fetchOob s.pc ∧ e = .faulted .fetchOob) ∨
       ∃ w, s.fetch = some w ∧
        ((decodeWord w = .unrecognized ∧ t = s.stallCycle w ∧ e = .stalled) ∨
         ∃ i u, decodeWord w = .recognized i ∧ exec i s = .next u ∧ t = u.finishCycle s.pc w i ∧
           e = u.handlerEnd)))) := by
  unfold cycle at h
  cases hw : s.config.wf
  · simp [hw] at h
  · refine ⟨rfl, ?_⟩
    cases hh : s.halt
    · refine .inr ⟨rfl, ?_⟩
      cases hf : s.fetch with
      | none =>
        simp only [hw, hh, hf] at h
        cases h
        exact .inl ⟨rfl, rfl, rfl⟩
      | some w =>
        refine .inr ⟨w, rfl, ?_⟩
        cases hd : decodeWord w with
        | unrecognized =>
          simp only [hw, hh, hf, hd] at h
          cases h
          exact .inl ⟨rfl, rfl, rfl⟩
        | recognized i =>
          simp only [hw, hh, hf, hd, runInstr] at h
          refine .inr ⟨i, ?_⟩
          cases he : exec i s with
          | next u =>
            simp only [he] at h
            cases h
            exact ⟨u, rfl, rfl, rfl, rfl⟩
          | fault r => simp [he] at h
          | refused r => simp [he] at h
    · simp only [hw, hh] at h
      cases h
      exact .inl ⟨rfl, rfl, rfl⟩

/-- Everything one step can do: what one cycle can, without how it ended. -/
theorem step_cases {s t : State} (h : step s = .next t) :
    s.config.wf = true ∧
    ((s.halt = true ∧ t = s) ∨
     (s.halt = false ∧
      ((s.fetch = none ∧ t = s.enterFault .fetchOob s.pc) ∨
       ∃ w, s.fetch = some w ∧
        ((decodeWord w = .unrecognized ∧ t = s.stallCycle w) ∨
         ∃ i u, decodeWord w = .recognized i ∧ exec i s = .next u ∧ t = u.finishCycle s.pc w i)))) := by
  obtain ⟨e, hc⟩ := stateOf_eq_next.1 h
  obtain ⟨hw, ⟨hh, ht, -⟩ | ⟨hh, ⟨hf, ht, -⟩ | ⟨w, hf, ⟨hd, ht, -⟩ | ⟨i, u, hd, he, ht, -⟩⟩⟩⟩ := cycle_cases hc
  · exact ⟨hw, .inl ⟨hh, ht⟩⟩
  · exact ⟨hw, .inr ⟨hh, .inl ⟨hf, ht⟩⟩⟩
  · exact ⟨hw, .inr ⟨hh, .inr ⟨w, hf, .inl ⟨hd, ht⟩⟩⟩⟩
  · exact ⟨hw, .inr ⟨hh, .inr ⟨w, hf, .inr ⟨i, u, hd, he, ht⟩⟩⟩⟩

/-- The cycle of a ready state whose fetched word decodes: one handler and the end of the cycle. -/
theorem cycle_eq_runInstr {s : State} {w : Word} {i : Instr} (hw : s.config.wf = true) (hh : s.halt = false)
    (hf : s.fetch = some w) (hd : decodeWord w = .recognized i) : cycle s = runInstr i w s := by
  simp [cycle, hw, hh, hf, hd]

/-- The step of such a state whose handler answers `u`. -/
theorem step_of_exec {s u : State} {w : Word} {i : Instr} (hw : s.config.wf = true) (hh : s.halt = false)
    (hf : s.fetch = some w) (hd : decodeWord w = .recognized i) (he : exec i s = .next u) :
    step s = .next (u.finishCycle s.pc w i) := by
  simp [step, stateOf, cycle_eq_runInstr hw hh hf hd, runInstr, he]

/-- The step of a ready state before an unrecognized word. -/
theorem step_of_unrecognized {s : State} {w : Word} (hw : s.config.wf = true) (hh : s.halt = false)
    (hf : s.fetch = some w) (hd : decodeWord w = .unrecognized) : step s = .next (s.stallCycle w) := by
  simp [step, stateOf, cycle, hw, hh, hf, hd]

/-- The step of a ready state that cannot fetch. -/
theorem step_of_no_fetch {s : State} (hw : s.config.wf = true) (hh : s.halt = false) (hf : s.fetch = none) :
    step s = .next (s.enterFault .fetchOob s.pc) := by
  simp [step, stateOf, cycle, hw, hh, hf]

/-- The step of a halted CORE. -/
theorem step_of_halt {s : State} (hw : s.config.wf = true) (hh : s.halt = true) : step s = .next s := by
  simp [step, stateOf, cycle, hw, hh]

/-! The moves at the boundary (R250, R254). -/

/-- Everything the Tick Driver's cycle can do: a cycle of the CORE, and one cycle fewer left. -/
theorem Session.cycle_eq_next {h h' : Session} {r : Reply} :
    h.cycle = .next (h', r) ↔
      h.cyclesLeft ≠ 0 ∧ ∃ t e, Machine.cycle h.state = .next (t, e) ∧ r = .cycle e ∧
        h' = { state := t, cyclesLeft := h.cyclesLeft - 1, beforeTick := false, beforeCycle := false } := by
  unfold Session.cycle
  by_cases h0 : h.cyclesLeft = 0
  · simp [h0]
  · cases hc : Machine.cycle h.state with
    | next q =>
      obtain ⟨t, e⟩ := q
      simp only [h0, if_false, Host.Outcome.next.injEq, Prod.mk.injEq, ne_eq, not_false_eq_true, true_and]
      constructor
      · rintro ⟨rfl, rfl⟩; exact ⟨t, e, ⟨rfl, rfl⟩, rfl, rfl⟩
      · rintro ⟨_, _, ⟨rfl, rfl⟩, rfl, rfl⟩; exact ⟨rfl, rfl⟩
    | fault q => simp [h0]
    | refused q => simp [h0]

/-- Configure answers, when it is legal, the configured CORE and nothing else changed. -/
theorem Session.configure_eq_next {h h' : Session} {u d : Nat} {tr : Bool} {r : Reply} :
    h.configure u d tr = .next (h', r) ↔
      h.beforeTick = true ∧ (h.state.configure u d tr).config.wf = true ∧
        h' = h.setState (h.state.configure u d tr) ∧ r = .done := by
  unfold Session.configure
  cases h.beforeTick <;> cases (h.state.configure u d tr).config.wf <;> simp [eq_comm]

/-- LoadImage answers, when it is legal, the loaded CORE and nothing else changed. -/
theorem Session.loadImage_eq_next {h h' : Session} {bytes : List Byte} {r : Reply} :
    h.loadImage bytes = .next (h', r) ↔
      h.beforeCycle = true ∧ imageWf bytes = true ∧ h' = h.setState (h.state.loadImage bytes) ∧ r = .done := by
  unfold Session.loadImage
  cases h.beforeCycle <;> cases imageWf bytes <;> simp [eq_comm]

/-- Tick answers, between ticks, the session with the cycles of a tick due. -/
theorem Session.beginTick_eq_next {h h' : Session} {r : Reply} :
    h.beginTick = .next (h', r) ↔
      h.cyclesLeft = 0 ∧ h' = { h with cyclesLeft := h.state.config.cyclesPerUpdate, beforeTick := false } ∧
        r = .done := by
  unfold Session.beginTick
  by_cases h0 : h.cyclesLeft = 0 <;> simp [h0, eq_comm]

end Sys2Proof.Machine
end

