-- ==== Sys2Proof/Laws/Framebuffer.lean ====
section
/-! SUPPORT. The framebuffer: what each cell is after a flip, after a clear, and after sprite rows (spec R190 to R193). -/

namespace Sys2Proof.Machine

/-- A cell after a flip: the flipped cell inverted, every other as it was. -/
theorem Framebuffer.cell_flip (fb : Framebuffer) (off k : Nat) (h : off < 2048) :
    (fb.flip off).cell k = if k = off then !fb.cell k else fb.cell k := by
  have ho : off / 64 < 32 := by omega
  unfold Framebuffer.flip Framebuffer.cell
  by_cases hk : k / 64 < 32
  · by_cases hrow : k / 64 = off / 64
    · have : k = off ↔ k % 64 = off % 64 := by omega
      have hm : k % 64 < 64 := Nat.mod_lt _ (by omega)
      have hm' : off % 64 < 64 := Nat.mod_lt _ (by omega)
      by_cases he : k % 64 = off % 64
      · simp [ho, hrow, this, he, hm']
      · have hne : ¬k = off := by omega
        simp only [ho, hrow, dite_true, hne, if_false, Vector.getElem_set_self, BitVec.getLsbD_xor,
          BitVec.getLsbD_shiftLeft, hm, decide_true, Bool.true_and]
        by_cases hlt : k % 64 < off % 64
        · simp [hlt]
        · have : k % 64 - off % 64 ≠ 0 := by omega
          simp [hlt, BitVec.getLsbD_one, this]
    · have hne : ¬k = off := fun h => hrow (by rw [h])
      simp [ho, hk, hne, Vector.getElem_set_ne, Ne.symm hrow]
  · have hne : ¬k = off := by omega
    simp [hk, hne]

/-- Every cell of a cleared screen is 0 (R140). -/
@[simp] theorem State.pixel_clearScreen (s : State) (off : Nat) : s.clearScreen.pixel off = false := by
  unfold State.pixel State.clearScreen Framebuffer.cell
  split <;> simp

/-- The offsets at which a sprite row has a set bit, column 0 at offset `start` (R190). -/
def rowLit (b : Byte) (start : Nat) (cols : List Nat) (off : Nat) : Prop :=
  ∃ col ∈ cols, b.getLsbD (7 - col) = true ∧ start + col = off

/-- The one lemma of `drawRow`, for columns in ascending order: inside the framebuffer exactly the lit cells are flipped,
and a collision is a lit cell that was set. -/
theorem drawRow_spec (b : Byte) (start : Nat) :
    ∀ (cols : List Nat), cols.Pairwise (· < ·) → ∀ (fb : Framebuffer) (hit : Bool),
      (∀ off, off < 2048 →
        ((drawRow b start cols (fb, hit)).1.cell off = true ↔
          (¬(fb.cell off = true) ↔ rowLit b start cols off))) ∧
      ((drawRow b start cols (fb, hit)).2 = true ↔
        hit = true ∨ ∃ off, off < 2048 ∧ rowLit b start cols off ∧ fb.cell off = true)
  | [], _, fb, hit => by simp [drawRow, rowLit]
  | col :: cols, hp, fb, hit => by
    have hlt : ∀ c ∈ cols, col < c := fun c hc => List.rel_of_pairwise_cons hp hc
    have hp' := hp.of_cons
    unfold drawRow
    by_cases hb : b.getLsbD (7 - col) = true
    · rw [if_pos hb]
      by_cases hout : 2047 < start + col
      · have hno : ∀ off, off < 2048 → ¬rowLit b start (col :: cols) off := by
          rintro off ho ⟨c, hc, -, rfl⟩
          rcases List.mem_cons.1 hc with rfl | hc
          · omega
          · have := hlt c hc; omega
        simp only [hout, if_true]
        refine ⟨fun off ho => by simp [hno off ho], ?_⟩
        constructor
        · exact Or.inl
        · rintro (h | ⟨off, ho, hl, -⟩)
          · exact h
          · exact absurd hl (hno off ho)
      · simp only [hout, if_false]
        obtain ⟨ih1, ih2⟩ := drawRow_spec b start cols hp' (fb.flip (start + col)) (hit || fb.cell (start + col))
        have hnot : ¬rowLit b start cols (start + col) := by
          rintro ⟨c, hc, -, he⟩
          have := hlt c hc; omega
        have hcons : ∀ off, rowLit b start (col :: cols) off ↔ off = start + col ∨ rowLit b start cols off := by
          intro off
          constructor
          · rintro ⟨c, hc, hb', rfl⟩
            rcases List.mem_cons.1 hc with rfl | hc
            · exact Or.inl rfl
            · exact Or.inr ⟨c, hc, hb', rfl⟩
          · rintro (rfl | ⟨c, hc, hb', rfl⟩)
            · exact ⟨col, List.mem_cons_self, hb, rfl⟩
            · exact ⟨c, List.mem_cons_of_mem _ hc, hb', rfl⟩
        have hin : start + col < 2048 := by omega
        refine ⟨fun off ho => ?_, ?_⟩
        · rw [ih1 off ho, hcons, Framebuffer.cell_flip _ _ _ hin]
          by_cases he : off = start + col
          · subst he; simp [hnot]
          · simp [he]
        · rw [ih2]
          constructor
          · rintro (h | ⟨off, ho, hl, hc⟩)
            · rcases Bool.or_eq_true _ _ ▸ h with h | h
              · exact Or.inl h
              · exact Or.inr ⟨start + col, hin, (hcons _).2 (Or.inl rfl), h⟩
            · rw [Framebuffer.cell_flip _ _ _ hin, if_neg (fun (h : off = start + col) => hnot (h ▸ hl))] at hc
              exact Or.inr ⟨off, ho, (hcons _).2 (Or.inr hl), hc⟩
          · rintro (h | ⟨off, ho, hl, hc⟩)
            · simp [h]
            · rcases (hcons off).1 hl with rfl | hl
              · simp [hc]
              · refine Or.inr ⟨off, ho, hl, ?_⟩
                rw [Framebuffer.cell_flip _ _ _ hin, if_neg (fun (h : off = start + col) => hnot (h ▸ hl))]
                exact hc
    · rw [if_neg hb]
      have hcons : ∀ off, rowLit b start (col :: cols) off ↔ rowLit b start cols off := by
        intro off
        constructor
        · rintro ⟨c, hc, hb', rfl⟩
          rcases List.mem_cons.1 hc with rfl | hc
          · exact absurd hb' hb
          · exact ⟨c, hc, hb', rfl⟩
        · rintro ⟨c, hc, hb', rfl⟩
          exact ⟨c, List.mem_cons_of_mem _ hc, hb', rfl⟩
      simpa only [hcons] using drawRow_spec b start cols hp' fb hit

/-- The offsets at which a sprite has a set bit: row `k` starts 64 offsets below row `k - 1` (R190). -/
def spriteLit (bs : List Byte) (start off : Nat) : Prop :=
  ∃ k, ∃ h : k < bs.length, rowLit bs[k] (start + 64 * k) [0, 1, 2, 3, 4, 5, 6, 7] off

theorem spriteLit_cons (b : Byte) (bs : List Byte) (start off : Nat) :
    spriteLit (b :: bs) start off ↔
      rowLit b start [0, 1, 2, 3, 4, 5, 6, 7] off ∨ spriteLit bs (start + 64) off := by
  constructor
  · rintro ⟨k, hk, h⟩
    cases k with
    | zero => exact Or.inl h
    | succ k =>
      refine Or.inr ⟨k, by simpa using hk, ?_⟩
      have : start + 64 * (k + 1) = start + 64 + 64 * k := by omega
      simpa [this] using h
  · rintro (h | ⟨k, hk, h⟩)
    · exact ⟨0, by simp, h⟩
    · refine ⟨k + 1, by simpa using hk, ?_⟩
      have : start + 64 * (k + 1) = start + 64 + 64 * k := by omega
      simpa [this] using h

/-- A row's lit offsets lie in the 8 offsets from its start on. -/
theorem rowLit_bounds {b : Byte} {start off : Nat} (h : rowLit b start [0, 1, 2, 3, 4, 5, 6, 7] off) :
    start ≤ off ∧ off < start + 8 := by
  obtain ⟨c, hc, -, rfl⟩ := h
  simp at hc; omega

theorem spriteLit_bounds {bs : List Byte} {start off : Nat} (h : spriteLit bs start off) : start ≤ off := by
  obtain ⟨k, hk, h⟩ := h
  have := (rowLit_bounds h).1; omega

/-- The one lemma of `drawRows`: inside the framebuffer exactly the lit cells are flipped, and a collision is a lit cell
that was set before the draw; no cell is visited twice (R191). -/
theorem drawRows_spec : ∀ (bs : List Byte) (start : Nat) (fb : Framebuffer) (hit : Bool),
    (∀ off, off < 2048 →
      ((drawRows bs start (fb, hit)).1.cell off = true ↔ (¬(fb.cell off = true) ↔ spriteLit bs start off))) ∧
    ((drawRows bs start (fb, hit)).2 = true ↔
      hit = true ∨ ∃ off, off < 2048 ∧ spriteLit bs start off ∧ fb.cell off = true)
  | [], start, fb, hit => by simp [drawRows, spriteLit]
  | b :: bs, start, fb, hit => by
    obtain ⟨r1, r2⟩ := drawRow_spec b start [0, 1, 2, 3, 4, 5, 6, 7] (by decide) fb hit
    obtain ⟨ih1, ih2⟩ := drawRows_spec bs (start + 64) (drawRow b start [0, 1, 2, 3, 4, 5, 6, 7] (fb, hit)).1
      (drawRow b start [0, 1, 2, 3, 4, 5, 6, 7] (fb, hit)).2
    have hdis : ∀ off, rowLit b start [0, 1, 2, 3, 4, 5, 6, 7] off → ¬spriteLit bs (start + 64) off := by
      intro off h1 h2
      have := (rowLit_bounds h1).2
      have := spriteLit_bounds h2
      omega
    unfold drawRows
    refine ⟨fun off ho => ?_, ?_⟩
    · rw [ih1 off ho, spriteLit_cons, r1 off ho]
      have := hdis off
      tauto
    · rw [ih2, r2]
      constructor
      · rintro ((h | ⟨off, ho, hl, hc⟩) | ⟨off, ho, hl, hc⟩)
        · exact Or.inl h
        · exact Or.inr ⟨off, ho, (spriteLit_cons ..).2 (Or.inl hl), hc⟩
        · refine Or.inr ⟨off, ho, (spriteLit_cons ..).2 (Or.inr hl), ?_⟩
          have h1 := (r1 off ho).1 hc
          have h2 : ¬rowLit b start [0, 1, 2, 3, 4, 5, 6, 7] off := fun h => hdis off h hl
          tauto
      · rintro (h | ⟨off, ho, hl, hc⟩)
        · exact Or.inl (Or.inl h)
        · rcases (spriteLit_cons ..).1 hl with hl | hl
          · exact Or.inl (Or.inr ⟨off, ho, hl, hc⟩)
          · refine Or.inr ⟨off, ho, hl, (r1 off ho).2 ?_⟩
            have h2 : ¬rowLit b start [0, 1, 2, 3, 4, 5, 6, 7] off := fun h => hdis off h hl
            tauto

end Sys2Proof.Machine
end

