-- ==== Sys2Proof/Laws/Claims.lean ====
section
/-! SUPPORT. From the operations to the words the claims are stated in: fault entry, frames of register-only effects, range
checks, covered cells, and encodings by mask. -/

namespace Sys2Proof.Machine

/-- Fault entry is what a claim calls a taken fault (R236). -/
theorem tookFault_enterFault {s : State} (c : Cause) {w : Word} (a : Word) (h : s.fetch.getD 0 = w) :
    TookFault s (s.enterFault c a) c w a where
  halt := rfl
  cause := rfl
  epc := rfl
  eword := h
  eaddr := rfl
  pc := rfl
  regs := fun _ _ => rfl
  index := rfl
  mem := fun _ => rfl
  stack := ⟨rfl, rfl⟩
  timers := ⟨rfl, rfl, rfl⟩
  screen := ⟨fun _ => rfl, rfl⟩
  inputs := ⟨rfl, rfl⟩
  draws := rfl
  sinks := rfl

/-- A state that differs in V, I and PC only keeps everything outside them. -/
theorem keepsOutside_of_eq {s t : State} (h : t = { s with v := t.v, index := t.index, pc := t.pc }) :
    KeepsOutside s t := by
  rw [h]
  exact ⟨fun _ => rfl, ⟨rfl, rfl⟩, ⟨rfl, rfl, rfl⟩, ⟨fun _ => rfl, rfl⟩, ⟨rfl, rfl, rfl, rfl, rfl⟩, ⟨rfl, rfl⟩, rfl, rfl⟩

/-- The range check decides what a claim calls touching outside (R63). -/
theorem State.outOfRange_eq_true {s : State} {len : Nat} : s.outOfRange len = true ↔ TouchesOutside s len :=
  s.outOfRange_iff len

/-- A guarded access out of range takes MEM_OOB (R235). -/
theorem State.guardRange_of_touchesOutside {s : State} {len : Nat} (t : State) (h : TouchesOutside s len) :
    s.guardRange len t = .next (s.enterFault .memOob s.offendingAddress) := by
  simp [State.guardRange, State.outOfRange_eq_true.2 h]

/-- A guarded access in range has its effect. -/
theorem State.guardRange_of_inside {s : State} {len : Nat} (t : State) (h : ¬TouchesOutside s len) :
    s.guardRange len t = .next t := by
  have : s.outOfRange len = false := by rw [← Bool.not_eq_true, State.outOfRange_eq_true]; exact h
  simp [State.guardRange, this]

/-- The lit offsets of the sprite bytes at I are the cells a claim calls covered (R190). -/
theorem spriteLit_iff_covers (s : State) (x y : RegNum) (n : BitVec 4) (off : Nat) :
    spriteLit (s.bytesAt s.index.toNat n.toNat) ((s.reg x).toNat + (s.reg y).toNat * 64) off ↔
      SpriteCovers s x y n off := by
  simp only [spriteLit, SpriteCovers, rowLit, State.bytesAt_length, State.getElem_bytesAt]
  constructor
  · rintro ⟨k, hk, c, hc, hb, rfl⟩
    exact ⟨k, c, hk, by simp at hc; omega, hb, by omega⟩
  · rintro ⟨k, c, hk, hc, hb, rfl⟩
    exact ⟨k, hk, c, by simp; omega, hb, by omega⟩

/-- A run of the core goes on from the state a step answers. -/
theorem core_run_succ {s t : State} (n : Nat) (h : step s = .next t) :
    Sys2Proof.core.run (n + 1) s = Sys2Proof.core.run n t := by
  have h' : Sys2Proof.core.step s = .next t := h
  simp only [Host.Core.run, h']

/-- Two host runs one after the other are one run of both lists. -/
theorem hostRun_append {ops ops' : List HostOp} {h h' : Session} {rs : List Reply} (hr : hostRun ops h = .next (h', rs)) :
    hostRun (ops ++ ops') h =
      match hostRun ops' h' with
      | .next q => .next (q.1, rs ++ q.2)
      | .fault e => .fault e
      | .refused e => .refused e := by
  induction ops generalizing h rs with
  | nil =>
    simp only [hostRun, Host.Outcome.next.injEq, Prod.mk.injEq] at hr
    obtain ⟨rfl, rfl⟩ := hr
    simp only [List.nil_append]
    cases hostRun ops' h <;> rfl
  | cons op ops ih =>
    simp only [hostRun] at hr
    simp only [List.cons_append, hostRun]
    cases ho : hostStep op h with
    | next r =>
      simp only [ho] at hr ⊢
      cases hq : hostRun ops r.1 with
      | next q =>
        simp only [hq, Host.Outcome.next.injEq, Prod.mk.injEq] at hr
        obtain ⟨rfl, rfl⟩ := hr
        rw [ih hq]
        cases hostRun ops' q.1 <;> rfl
      | fault e => simp [hq] at hr
      | refused e => simp [hq] at hr
    | fault e => simp [ho] at hr
    | refused e => simp [ho] at hr

/-! Encodings by mask: what the mask fixes is a field of the word. -/

theorem encodes_of_family {f : Word → Instr} {val : Word}
    (h : ∀ w, familyField w = familyField val → decodeWord w = .recognized (f w)) : Encodes 0xF000#16 val f :=
  fun w hw => h w (familyField_of_mask hw (by decide))

theorem encodes_of_family_n {f : Word → Instr} {val : Word}
    (h : ∀ w, familyField w = familyField val → nField w = nField val → decodeWord w = .recognized (f w)) :
    Encodes 0xF00F#16 val f :=
  fun w hw => h w (familyField_of_mask hw (by decide)) (nField_of_mask hw (by decide))

theorem encodes_of_family_nn {f : Word → Instr} {val : Word}
    (h : ∀ w, familyField w = familyField val → nnField w = nnField val → decodeWord w = .recognized (f w)) :
    Encodes 0xF0FF#16 val f :=
  fun w hw => h w (familyField_of_mask hw (by decide)) (nnField_of_mask hw (by decide))

end Sys2Proof.Machine
end

