-- ==== Sys2Proof/Laws/PerInstr.lean ====
section
/-! SUPPORT. Per instruction: its word lies in its row of the opcode map (spec R103). -/

namespace Sys2Proof.Laws.EncodeRow

/-- The word of the instruction matches its row of the opcode map: `(w AND mask) = match` (R103). -/
def Statement (i : Instr) : Prop := encode i &&& (opcodeRow i).1 = (opcodeRow i).2

theorem cls : Statement (.cls) := rfl

theorem ret : Statement (.ret) := rfl

theorem jp (nnn : BitVec 12) : Statement (.jp nnn) := by
  simp only [Statement, encode, opcodeRow, and_F000, familyField_wordNnn]
  decide

theorem call (nnn : BitVec 12) : Statement (.call nnn) := by
  simp only [Statement, encode, opcodeRow, and_F000, familyField_wordNnn]
  decide

theorem seByte (x : RegNum) (nn : Byte) : Statement (.seByte x nn) := by
  simp only [Statement, encode, opcodeRow, and_F000, familyField_wordXnn]
  decide

theorem sneByte (x : RegNum) (nn : Byte) : Statement (.sneByte x nn) := by
  simp only [Statement, encode, opcodeRow, and_F000, familyField_wordXnn]
  decide

theorem seReg (x y : RegNum) : Statement (.seReg x y) := by
  simp only [Statement, encode, opcodeRow, and_F000, familyField_nibbles]
  decide

theorem ldByte (x : RegNum) (nn : Byte) : Statement (.ldByte x nn) := by
  simp only [Statement, encode, opcodeRow, and_F000, familyField_wordXnn]
  decide

theorem addByte (x : RegNum) (nn : Byte) : Statement (.addByte x nn) := by
  simp only [Statement, encode, opcodeRow, and_F000, familyField_wordXnn]
  decide

theorem ldReg (x y : RegNum) : Statement (.ldReg x y) := by
  simp only [Statement, encode, opcodeRow, and_F00F, familyField_nibbles, nField_nibbles]
  decide

theorem orReg (x y : RegNum) : Statement (.orReg x y) := by
  simp only [Statement, encode, opcodeRow, and_F00F, familyField_nibbles, nField_nibbles]
  decide

theorem andReg (x y : RegNum) : Statement (.andReg x y) := by
  simp only [Statement, encode, opcodeRow, and_F00F, familyField_nibbles, nField_nibbles]
  decide

theorem xorReg (x y : RegNum) : Statement (.xorReg x y) := by
  simp only [Statement, encode, opcodeRow, and_F00F, familyField_nibbles, nField_nibbles]
  decide

theorem addReg (x y : RegNum) : Statement (.addReg x y) := by
  simp only [Statement, encode, opcodeRow, and_F00F, familyField_nibbles, nField_nibbles]
  decide

theorem sub (x y : RegNum) : Statement (.sub x y) := by
  simp only [Statement, encode, opcodeRow, and_F00F, familyField_nibbles, nField_nibbles]
  decide

theorem shr (x : RegNum) : Statement (.shr x) := by
  simp only [Statement, encode, opcodeRow, and_F00F, familyField_nibbles, nField_nibbles]
  decide

theorem subn (x y : RegNum) : Statement (.subn x y) := by
  simp only [Statement, encode, opcodeRow, and_F00F, familyField_nibbles, nField_nibbles]
  decide

theorem shl (x : RegNum) : Statement (.shl x) := by
  simp only [Statement, encode, opcodeRow, and_F00F, familyField_nibbles, nField_nibbles]
  decide

theorem sneReg (x y : RegNum) : Statement (.sneReg x y) := by
  simp only [Statement, encode, opcodeRow, and_F000, familyField_nibbles]
  decide

theorem ldI (nnn : BitVec 12) : Statement (.ldI nnn) := by
  simp only [Statement, encode, opcodeRow, and_F000, familyField_wordNnn]
  decide

theorem jpV0 (nnn : BitVec 12) : Statement (.jpV0 nnn) := by
  simp only [Statement, encode, opcodeRow, and_F000, familyField_wordNnn]
  decide

theorem rnd (x : RegNum) (nn : Byte) : Statement (.rnd x nn) := by
  simp only [Statement, encode, opcodeRow, and_F000, familyField_wordXnn]
  decide

theorem drw (x y : RegNum) (n : BitVec 4) : Statement (.drw x y n) := by
  simp only [Statement, encode, opcodeRow, and_F000, familyField_nibbles]
  decide

theorem skp (x : RegNum) : Statement (.skp x) := by
  simp only [Statement, encode, opcodeRow, and_F0FF, familyField_wordXnn, nnField_wordXnn]
  decide

theorem sknp (x : RegNum) : Statement (.sknp x) := by
  simp only [Statement, encode, opcodeRow, and_F0FF, familyField_wordXnn, nnField_wordXnn]
  decide

theorem ldVxDt (x : RegNum) : Statement (.ldVxDt x) := by
  simp only [Statement, encode, opcodeRow, and_F0FF, familyField_wordXnn, nnField_wordXnn]
  decide

theorem ldVxK (x : RegNum) : Statement (.ldVxK x) := by
  simp only [Statement, encode, opcodeRow, and_F0FF, familyField_wordXnn, nnField_wordXnn]
  decide

theorem ldDtVx (x : RegNum) : Statement (.ldDtVx x) := by
  simp only [Statement, encode, opcodeRow, and_F0FF, familyField_wordXnn, nnField_wordXnn]
  decide

theorem ldStVx (x : RegNum) : Statement (.ldStVx x) := by
  simp only [Statement, encode, opcodeRow, and_F0FF, familyField_wordXnn, nnField_wordXnn]
  decide

theorem addIVx (x : RegNum) : Statement (.addIVx x) := by
  simp only [Statement, encode, opcodeRow, and_F0FF, familyField_wordXnn, nnField_wordXnn]
  decide

theorem ldFVx (x : RegNum) : Statement (.ldFVx x) := by
  simp only [Statement, encode, opcodeRow, and_F0FF, familyField_wordXnn, nnField_wordXnn]
  decide

theorem ldBVx (x : RegNum) : Statement (.ldBVx x) := by
  simp only [Statement, encode, opcodeRow, and_F0FF, familyField_wordXnn, nnField_wordXnn]
  decide

theorem ldMemVx (x : RegNum) : Statement (.ldMemVx x) := by
  simp only [Statement, encode, opcodeRow, and_F0FF, familyField_wordXnn, nnField_wordXnn]
  decide

theorem ldVxMem (x : RegNum) : Statement (.ldVxMem x) := by
  simp only [Statement, encode, opcodeRow, and_F0FF, familyField_wordXnn, nnField_wordXnn]
  decide

end Sys2Proof.Laws.EncodeRow
end

