-- ==== Sys2Proof/Tests/Slice0.lean ====
section
/-! SUPPORT. The model's own tests, expected values from spec/95_test_vectors.md: ill-formed terms refused, one written-out word
per instruction decoded, single steps, and for every statement with hypotheses a witness that meets them. -/

namespace Sys2Proof.Machine

/-! ## Ill-formed terms are refused (R7, R37, R277) -/

theorem test_default_config_wf : State.reset.config.wf = true := by decide
theorem test_depth_zero_refused : ({ defaultConfig with stackDepth := 0 } : Config).wf = false := by decide
theorem test_cadence_zero_refused : ({ defaultConfig with cyclesPerTimerDecrement := 0 } : Config).wf = false := by decide
theorem test_image_full_wf : imageWf (List.replicate 3584 0) = true := by
  rw [imageWf, List.length_replicate]; rfl
theorem test_image_oversized_refused : imageWf (List.replicate 3585 0) = false := by
  rw [imageWf, List.length_replicate]; rfl

/-! ## One word of each instruction, written out from R103's patterns -/

theorem test_decode_cls : decodeWord 0x00E0#16 = .recognized .cls := by decide
theorem test_decode_ret : decodeWord 0x00EE#16 = .recognized .ret := by decide
theorem test_decode_jp : decodeWord 0x1234#16 = .recognized (.jp 0x234#12) := by decide
theorem test_decode_call : decodeWord 0x2ABC#16 = .recognized (.call 0xABC#12) := by decide
theorem test_decode_seByte : decodeWord 0x332A#16 = .recognized (.seByte 3 0x2A#8) := by decide
theorem test_decode_sneByte : decodeWord 0x432A#16 = .recognized (.sneByte 3 0x2A#8) := by decide
theorem test_decode_seReg : decodeWord 0x5AB7#16 = .recognized (.seReg 0xA 0xB) := by decide
theorem test_decode_ldByte : decodeWord 0x61AB#16 = .recognized (.ldByte 1 0xAB#8) := by decide
theorem test_decode_addByte : decodeWord 0x7102#16 = .recognized (.addByte 1 0x02#8) := by decide
theorem test_decode_ldReg : decodeWord 0x8120#16 = .recognized (.ldReg 1 2) := by decide
theorem test_decode_orReg : decodeWord 0x8121#16 = .recognized (.orReg 1 2) := by decide
theorem test_decode_andReg : decodeWord 0x8122#16 = .recognized (.andReg 1 2) := by decide
theorem test_decode_xorReg : decodeWord 0x8123#16 = .recognized (.xorReg 1 2) := by decide
theorem test_decode_addReg : decodeWord 0x8124#16 = .recognized (.addReg 1 2) := by decide
theorem test_decode_sub : decodeWord 0x8125#16 = .recognized (.sub 1 2) := by decide
theorem test_decode_shr : decodeWord 0x8126#16 = .recognized (.shr 1) := by decide
theorem test_decode_subn : decodeWord 0x8AB7#16 = .recognized (.subn 0xA 0xB) := by decide
theorem test_decode_shl : decodeWord 0x8ABE#16 = .recognized (.shl 0xA) := by decide
theorem test_decode_sneReg : decodeWord 0x9AB5#16 = .recognized (.sneReg 0xA 0xB) := by decide
theorem test_decode_ldI : decodeWord 0xA2F0#16 = .recognized (.ldI 0x2F0#12) := by decide
theorem test_decode_jpV0 : decodeWord 0xB300#16 = .recognized (.jpV0 0x300#12) := by decide
theorem test_decode_rnd : decodeWord 0xC10F#16 = .recognized (.rnd 1 0x0F#8) := by decide
theorem test_decode_drw : decodeWord 0xD125#16 = .recognized (.drw 1 2 5) := by decide
theorem test_decode_skp : decodeWord 0xE19E#16 = .recognized (.skp 1) := by decide
theorem test_decode_sknp : decodeWord 0xE1A1#16 = .recognized (.sknp 1) := by decide
theorem test_decode_ldVxDt : decodeWord 0xF207#16 = .recognized (.ldVxDt 2) := by decide
theorem test_decode_ldVxK : decodeWord 0xF30A#16 = .recognized (.ldVxK 3) := by decide
theorem test_decode_ldDtVx : decodeWord 0xF015#16 = .recognized (.ldDtVx 0) := by decide
theorem test_decode_ldStVx : decodeWord 0xF318#16 = .recognized (.ldStVx 3) := by decide
theorem test_decode_addIVx : decodeWord 0xFA1E#16 = .recognized (.addIVx 0xA) := by decide
theorem test_decode_ldFVx : decodeWord 0xF429#16 = .recognized (.ldFVx 4) := by decide
theorem test_decode_ldBVx : decodeWord 0xF233#16 = .recognized (.ldBVx 2) := by decide
theorem test_decode_ldMemVx : decodeWord 0xF355#16 = .recognized (.ldMemVx 3) := by decide
theorem test_decode_ldVxMem : decodeWord 0xF165#16 = .recognized (.ldVxMem 1) := by decide

/-- The vectors' unrecognized words (95_test_vectors.md, "Fetch and decode"). -/
theorem test_decode_unrecognized :
    [0x0000#16, 0x00E1#16, 0x01E0#16, 0x0FFF#16, 0x8AB8#16, 0x8ABF#16, 0xE19F#16, 0xE10E#16, 0xF175#16, 0xF000#16,
      0xFFFF#16].map decodeWord = List.replicate 11 .unrecognized := by decide

/-- The opcode table's numbering: 16 bits, w as it stands. -/
theorem test_decode_table_word : decodeTableWord 16 0xD125 = some (.drw 1 2 5) := by decide

/-! ## Single steps -/

/-- The reset state with one instruction at the PC. -/
def testState (w : Nat) : State := State.reset.withFetchWord 16 w

/-- The state after one step, where the step answers one. -/
def after (s : State) : Option State :=
  match step s with
  | .next t => some t
  | _ => none

/-- A CORE that has taken STACK_UNDERFLOW. -/
def haltedCore : State := (testState 0x00EE).enterFault .stackUnderflow 0

/-- What is looked at after one step: PC, I, some registers. -/
def look (s : State) (rs : List RegNum) : Option (Word × Word × List Byte) :=
  (after s).map fun t => (t.pc, t.index, rs.map t.reg)

/-- The fault registers after one step (R36). -/
def lookFault (s : State) : Option (Bool × BitVec 3 × Word × Word × Word) :=
  (after s).map fun t => (t.halt, t.cause.code, t.epc, t.eword, t.eaddr)

theorem test_cls : (after { testState 0x00E0 with fb := Vector.replicate 32 0xFF }).map
    (fun t => (t.pc, t.dirty, (List.range 9).map t.pixel)) = some (0x202, true, List.replicate 9 false) := by decide
theorem test_ret : (after { testState 0x00EE with sp := 2, stack := [0x0123, 0x0456] ++ List.replicate 14 0 }).map
    (fun t => (t.pc, t.sp, t.stack.take 2)) = some (0x458, 1, [0x0123, 0x0456]) := by decide
theorem test_ret_underflow : lookFault (testState 0x00EE) = some (true, 2, 0x200, 0x00EE, 0) := by decide
theorem test_jp : look (testState 0x1201) [] = some (0x201, 0, []) := by decide
theorem test_call : (after (testState 0x2ABC)).map (fun t => (t.pc, t.sp, t.stack.take 2)) =
    some (0xABC, 1, [0x200, 0]) := by decide
theorem test_call_overflow : lookFault { testState 0x2ABC with sp := 16 } = some (true, 3, 0x200, 0x2ABC, 0) := by decide
theorem test_seByte_taken : look ((testState 0x332A).setReg 3 0x2A) [] = some (0x204, 0, []) := by decide
theorem test_seByte_not_taken : look ((testState 0x332A).setReg 3 0x2B) [] = some (0x202, 0, []) := by decide
theorem test_sneByte_taken : look ((testState 0x432A).setReg 3 0x2B) [] = some (0x204, 0, []) := by decide
theorem test_sneByte_not_taken : look ((testState 0x432A).setReg 3 0x2A) [] = some (0x202, 0, []) := by decide
theorem test_seReg_taken : look (((testState 0x5120).setReg 1 7).setReg 2 7) [] = some (0x204, 0, []) := by decide
theorem test_seReg_not_taken : look (((testState 0x5120).setReg 1 7).setReg 2 8) [] = some (0x202, 0, []) := by decide
theorem test_sneReg_taken : look (((testState 0x9120).setReg 1 7).setReg 2 8) [] = some (0x204, 0, []) := by decide
theorem test_sneReg_same : look ((testState 0x9110).setReg 1 7) [] = some (0x202, 0, []) := by decide
theorem test_jpV0 : look ((testState 0xB300).setReg 0 0x10) [] = some (0x310, 0, []) := by decide
theorem test_jpV0_above : look ((testState 0xBFFF).setReg 0 0xFF) [] = some (0x10FE, 0, []) := by decide
theorem test_ldByte : look ((testState 0x61AB).setReg 15 0x55) [1, 15] = some (0x202, 0, [0xAB, 0x55]) := by decide
theorem test_ldByte_scenario : look (testState 0x602A) [0] = some (0x202, 0, [0x2A]) := by decide
theorem test_addByte_wraps : look (((testState 0x7102).setReg 1 0xFF).setReg 15 0x55) [1, 15] =
    some (0x202, 0, [0x01, 0x55]) := by decide
theorem test_ldReg : look (((testState 0x8120).setReg 2 0x9C).setReg 15 0x55) [1, 15] =
    some (0x202, 0, [0x9C, 0x55]) := by decide
theorem test_orReg : look ((((testState 0x8121).setReg 1 0xF0).setReg 2 0x3C).setReg 15 0x55) [1, 15] =
    some (0x202, 0, [0xFC, 0x55]) := by decide
theorem test_andReg : look ((((testState 0x8122).setReg 1 0xF0).setReg 2 0x3C).setReg 15 0x55) [1, 15] =
    some (0x202, 0, [0x30, 0x55]) := by decide
theorem test_xorReg : look ((((testState 0x8123).setReg 1 0xF0).setReg 2 0x3C).setReg 15 0x55) [1, 15] =
    some (0x202, 0, [0xCC, 0x55]) := by decide
theorem test_addReg_carry : look (((testState 0x8124).setReg 1 0xFF).setReg 2 0x02) [1, 15] =
    some (0x202, 0, [0x01, 0x01]) := by decide
theorem test_addReg_into_flag : look (((testState 0x8F14).setReg 15 0x10).setReg 1 0xF5) [15] =
    some (0x202, 0, [0x05]) := by decide
theorem test_sub_borrow : look (((testState 0x8125).setReg 1 5).setReg 2 6) [1, 15] =
    some (0x202, 0, [0xFF, 0x00]) := by decide
theorem test_sub_equal : look (((testState 0x8125).setReg 1 5).setReg 2 5) [1, 15] =
    some (0x202, 0, [0x00, 0x01]) := by decide
theorem test_shr : look (((testState 0x8126).setReg 1 0x81).setReg 2 0xFF) [1, 2, 15] =
    some (0x202, 0, [0x40, 0xFF, 0x01]) := by decide
theorem test_shr_flag_register : look ((testState 0x8F06).setReg 15 0x03) [15] = some (0x202, 0, [0x01]) := by decide
theorem test_subn : look (((testState 0x8127).setReg 1 5).setReg 2 6) [1, 15] = some (0x202, 0, [0x01, 0x01]) := by decide
theorem test_subn_borrow : look (((testState 0x8127).setReg 1 6).setReg 2 5) [1, 15] =
    some (0x202, 0, [0xFF, 0x00]) := by decide
theorem test_shl_raw_flag : look (((testState 0x812E).setReg 1 0x81).setReg 2 0xFF) [1, 2, 15] =
    some (0x202, 0, [0x02, 0xFF, 0x80]) := by decide
theorem test_shl_no_flag : look ((testState 0x812E).setReg 1 0x41) [1, 15] = some (0x202, 0, [0x82, 0x00]) := by decide
theorem test_ldI : look ((testState 0xA2F0).setReg 15 0x55) [15] = some (0x202, 0x2F0, [0x55]) := by decide

/-- RND with NN = 0 gives 0 and with NN = 0xFF the draw itself, whatever it is, and each uses the draw up (R172). -/
theorem test_rnd : ∃ t u, exec (.rnd 1 0x00#8) State.reset = .next t ∧ exec (.rnd 1 0xFF#8) State.reset = .next u ∧
    t.reg 1 = 0 ∧ t.draws = 1 ∧ u.reg 1 = Config.randomByte 0 ∧ u.pc = 0x202 :=
  ⟨_, _, rfl, rfl, by simp, rfl, by
    show 0xFF#8 &&& State.reset.drawnByte = _
    exact BitVec.allOnes_and, rfl⟩

/-- The cells set after one step, out of those asked for. -/
def cellsSet (s : State) (offs : List Nat) : Option (List Nat × Byte × Bool) :=
  (after s).map fun t => (offs.filter t.pixel, t.reg 15, t.dirty)

theorem test_drw_right_edge : cellsSet (((testState 0xD121).setIndex 0x300).writeByte 0x300 0xFF |>.setReg 1 60)
    [0, 59, 60, 61, 62, 63, 64, 65, 66, 67, 68] = some ([60, 61, 62, 63, 64, 65, 66, 67], 0, true) := by decide
theorem test_drw_collision : cellsSet { ((testState 0xD121).setIndex 0x300).writeByte 0x300 0xFF with
      fb := (Vector.replicate 32 0).set 0 0x8 } [0, 1, 2, 3, 4, 5, 6, 7, 8, 64] =
    some ([0, 1, 2, 4, 5, 6, 7], 1, true) := by decide
theorem test_skp : look { (testState 0xE59E).setReg 5 0x0A with keys := 0x0400 } [] = some (0x204, 0, []) := by decide
theorem test_skp_key_oob : lookFault ((testState 0xE59E).setReg 5 0x10) = some (true, 5, 0x200, 0xE59E, 0x10) := by decide
theorem test_sknp : look { (testState 0xE5A1).setReg 5 0x0A with keys := 0x0400 } [] = some (0x202, 0, []) := by decide
theorem test_sknp_key_oob : lookFault ((testState 0xE5A1).setReg 5 0xFF) = some (true, 5, 0x200, 0xE5A1, 0xFF) := by decide
theorem test_ldVxK_lowest : look { testState 0xF30A with keys := 0x0280 } [3] = some (0x202, 0, [7]) := by decide
theorem test_ldVxK_waits : (after ((testState 0xF30A).setReg 3 0x44)).map (fun t => (t.pc, t.reg 3, t.tdiv)) =
    some (0x200, 0x44, 1) := by decide
/-- What the timers and the sinks hold after one step. -/
def lookTimers (s : State) : Option (Byte × Byte × Nat × List Event) :=
  (after s).map fun t => (t.dt, t.st, t.tdiv, t.emitted)

theorem test_ldVxDt_before_decrement : (after { testState 0xF207 with dt := 0x3C, tdiv := 9 }).map
    (fun t => (t.reg 2, t.dt, t.tdiv)) = some (0x3C, 0x3B, 0) := by decide
theorem test_ldDtVx_decremented_at_once : lookTimers { (testState 0xF015).setReg 0 5 with tdiv := 9 } =
    some (4, 0, 0, []) := by decide
theorem test_ldDtVx_keeps_cadence : lookTimers ((testState 0xF015).setReg 0 5) = some (5, 0, 1, []) := by decide
theorem test_ldStVx_edge_by_write : lookTimers { testState 0xF318 with st := 7 } = some (0, 0, 1, [.soundEdge]) := by decide
theorem test_ldStVx_edge_by_decrement : lookTimers { (testState 0xF318).setReg 3 1 with tdiv := 9 } =
    some (0, 0, 0, [.soundEdge]) := by decide
theorem test_addIVx_flag_above_fff : look (((testState 0xF11E).setIndex 0x0FFE).setReg 1 3) [15] =
    some (0x202, 0x1001, [1]) := by decide
theorem test_addIVx_flag_register : look (((testState 0xFF1E).setIndex 0x0FF0).setReg 15 0x20) [15] =
    some (0x202, 0x1010, [1]) := by decide
theorem test_ldFVx : look ((testState 0xF429).setReg 4 0x0A) [] = some (0x202, 0x32, []) := by decide
theorem test_ldFVx_unmasked : look ((testState 0xF429).setReg 4 0xFF) [] = some (0x202, 0x4FB, []) := by decide

/-- Some bytes of memory after one step. -/
def lookMem (s : State) (as : List Nat) : Option (Word × List Byte) := (after s).map fun t => (t.index, as.map t.readByte)

theorem test_ldBVx : lookMem (((testState 0xF233).setIndex 0x300).setReg 2 254) [0x2FF, 0x300, 0x301, 0x302, 0x303] =
    some (0x300, [0, 2, 5, 4, 0]) := by decide
theorem test_ldBVx_out_of_range : lookFault ((testState 0xF233).setIndex 0x0FFE) =
    some (true, 4, 0x200, 0xF233, 0x1000) := by decide
theorem test_ldMemVx : lookMem (((((testState 0xF155).setIndex 0x400).setReg 0 0x11).setReg 1 0x22).setReg 2 0x33)
    [0x3FF, 0x400, 0x401, 0x402] = some (0x400, [0, 0x11, 0x22, 0]) := by decide
theorem test_ldMemVx_out_of_range : lookFault ((testState 0xFF55).setIndex 0x0FF1) =
    some (true, 4, 0x200, 0xFF55, 0x1000) := by decide
theorem test_ldVxMem_glyph : look ((testState 0xF465).setReg 5 0x77) [0, 1, 2, 3, 4, 5] =
    some (0x202, 0, [0xF0, 0x90, 0x90, 0x90, 0xF0, 0x77]) := by decide
theorem test_ldVxMem_far_index : lookFault ((testState 0xF065).setIndex 0x2000) =
    some (true, 4, 0x200, 0xF065, 0x2000) := by decide
theorem test_unrecognized_stalls : (after (testState 0)).map (fun t => (t.pc, t.halt, t.tdiv, t.emitted)) =
    some (0x200, false, 1, [.diagnostic 0 0x200]) := by decide
theorem test_fetch_oob : lookFault { State.reset with pc := 0x0FFF } = some (true, 1, 0x0FFF, 0, 0x0FFF) := by decide
theorem test_fetch_odd_pc : look ({ State.reset with pc := 0x201 }.withFetchWord 16 0x6007) [0] =
    some (0x203, 0, [7]) := by decide
theorem test_trace_record : (after { testState 0x602A with config := { defaultConfig with traceEnabled := true } }).map
    (fun t => t.emitted) = some [.trace 0x200 0x602A (.ldByte 0 0x2A#8)] := by decide
/-- The three ends of a cycle that is no completed instruction, and one that is (R236, R124, R121; program P6). -/
theorem test_cycle_ends :
    [testState 0x00EE, testState 0, haltedCore, testState 0x1200].map
      (fun s => match cycle s with | .next r => some r.2 | _ => none) =
    [some (.faulted .stackUnderflow), some .stalled, some .halted, some .completed] := by decide

/-- The replies of a run of the host, where it answers one. -/
def repliesOf (ops : List HostOp) (s : State) : Option (List Reply × Word × Nat) :=
  match hostRun ops (Session.fresh s) with
  | .next r => some (r.2, r.1.state.pc, r.1.cyclesLeft)
  | _ => none

/-- One tick of three cycles of which the first faults: the other two are no-ops (95_test_vectors.md, "Faults, halt and
Reset"). -/
theorem test_tick_after_fault : repliesOf (.configure 3 10 false :: tickMoves [0, 0, 0]) (testState 0x00EE) =
    some ([.done, .done, .done, .cycle (.faulted .stackUnderflow), .done, .cycle .halted, .done, .cycle .halted], 0x200, 0) := by
  decide

/-- DIRTY read and cleared between two cycles of one tick, then Reset inside the tick (R250, R270; CLS at 0x200). -/
theorem test_moves_inside_a_tick :
    repliesOf [.configure 3 10 false, .tick, .cycle, .readAndClearDirty, .readAndClearDirty, .cycle, .reset] (testState 0x00E0) =
    some ([.done, .done, .cycle .completed, .dirty true, .dirty false, .cycle .stalled, .done], 0x200, 1) := by decide

theorem test_load_image : ((State.reset.loadImage [0x60, 0x2A]).readByte 0x200, (State.reset.loadImage [0x60, 0x2A]).readByte 0x201) =
    (0x60, 0x2A) := by decide

/-! ## Witnesses: for each statement with hypotheses, a state and operands that meet them together -/

/-- A state that is ready, fetches `w` and decodes it to `i`. -/
abbrev Fetches (s : State) (w : Word) (i : Instr) : Prop :=
  s.Ready ∧ s.fetch = some w ∧ decodeWord w = .recognized i

/-- OpcodeMapSelectsTheInstruction: a word in a row, a recognized word, a word in no row. -/
theorem test_witness_opcode_map :
    0x8AB7#16 &&& (opcodeRow (.subn 0 0)).1 = (opcodeRow (.subn 0 0)).2 ∧
    decodeWord 0x8AB7#16 = .recognized (.subn 0xA 0xB) ∧
    ∀ j, 0x00E1#16 &&& (opcodeRow j).1 ≠ (opcodeRow j).2 :=
  ⟨by decide, by decide, fun j => by cases j <;> simp [opcodeRow]⟩

/-- SecondLevelDispatch: a word of each family it speaks of. -/
theorem test_witness_second_level :
    familyField 0x00E1#16 = 0x0#4 ∧ familyField 0x8AB8#16 = 0x8#4 ∧ familyField 0xE19F#16 = 0xE#4 ∧
    familyField 0xF175#16 = 0xF#4 ∧ familyField 0x5AB7#16 = 0x5#4 ∧ familyField 0x9AB5#16 = 0x9#4 := by decide

/-- StepRunsTheDecodedInstruction: an instruction that completes, one that takes a fault, one that stops on a broken stack. -/
theorem test_witness_step_runs :
    (Fetches (testState 0x1234) 0x1234 (.jp 0x234#12) ∧
      ∃ t, exec (.jp 0x234#12) (testState 0x1234) = .next t ∧ t.halt = false) ∧
    (Fetches (testState 0x00EE) 0x00EE .ret ∧ ∃ t, exec .ret (testState 0x00EE) = .next t ∧ t.halt = true) ∧
    (Fetches { testState 0x00EE with sp := 17 } 0x00EE .ret ∧
      exec .ret { testState 0x00EE with sp := 17 } = .fault .noStackEntry) :=
  ⟨⟨⟨⟨by decide, by decide⟩, by decide, by decide⟩, _, rfl, by decide⟩,
    ⟨⟨⟨by decide, by decide⟩, by decide, by decide⟩, _, rfl, by decide⟩,
    ⟨⟨by decide, by decide⟩, by decide, by decide⟩, rfl⟩

/-- A session inside a tick whose CORE has taken a fault, one cycle left. -/
def haltedSession : Session where
  state := haltedCore
  cyclesLeft := 1
  beforeTick := false
  beforeCycle := false

/-- HaltedCoreDoesNothing, and TickRunsItsCycles on a halted CORE. -/
theorem test_witness_halted :
    haltedSession.state.config.wf = true ∧ haltedSession.state.halt = true ∧ HostOp.cycle ≠ .reset ∧
    ∃ h' r, hostStep .cycle haltedSession = .next (h', r) :=
  ⟨by decide, by decide, by decide, _, _, rfl⟩

/-- FetchAndItsBound at its boundary: 0x0FFE can be fetched from, 0x0FFF not. -/
theorem test_witness_fetch_bound :
    ({ State.reset with pc := 0x0FFE } : State).pc.toNat + 1 ≤ 4095 ∧
    4095 < ({ State.reset with pc := 0x0FFF } : State).pc.toNat + 1 ∧
    ({ State.reset with pc := 0x0FFF } : State).Ready :=
  ⟨by decide, by decide, by decide, by decide⟩

/-- UnrecognizedWordStalls, and the last clause of PcAfterEachInstruction. -/
theorem test_witness_stall :
    (testState 0x0FFF).Ready ∧ (testState 0x0FFF).fetch = some 0x0FFF#16 ∧ decodeWord 0x0FFF#16 = .unrecognized ∧
    (testState 0x0FFF).Hung ∧ ∃ t, step (testState 0x0FFF) = .next t :=
  ⟨⟨by decide, by decide⟩, by decide, by decide, ⟨by decide, 0x0FFF#16, by decide, by decide⟩, _, rfl⟩

/-- TimerBookkeepingCountsDown: a counting cycle, a faulting cycle, and TDIV on each side of the cadence. -/
theorem test_witness_timers :
    ((testState 0x1200).Ready ∧ ∃ t, step (testState 0x1200) = .next t ∧ t.halt = false) ∧
    ((testState 0x00EE).Ready ∧ ∃ t, step (testState 0x00EE) = .next t ∧ t.halt = true) ∧
    ({ State.reset with tdiv := 8 } : State).tdiv + 1 < State.reset.config.cyclesPerTimerDecrement ∧
    State.reset.config.cyclesPerTimerDecrement ≤ ({ State.reset with tdiv := 9 } : State).tdiv + 1 :=
  ⟨⟨⟨by decide, by decide⟩, _, rfl, by decide⟩, ⟨⟨by decide, by decide⟩, _, rfl, by decide⟩, by decide, by decide⟩

/-- SoundEdgesOfTheCore and SetSoundTimer: ST 7 with V3 = 0 at the start of a cycle of LD ST,V3, with a decrement due. -/
theorem test_witness_sound :
    Fetches { testState 0xF318 with st := 7, tdiv := 9 } 0xF318 (.ldStVx 3) ∧
    (({ testState 0xF318 with st := 7, tdiv := 9 } : State).st ≠ 0 ∧
      ({ testState 0xF318 with st := 7, tdiv := 9 } : State).reg 3 = 0) ∧
    Fetches { testState 0xF318 with st := 0, tdiv := 8 } 0xF318 (.ldStVx 3) ∧
    ¬(({ testState 0xF318 with st := 0, tdiv := 8 } : State).st ≠ 0 ∧
      ({ testState 0xF318 with st := 0, tdiv := 8 } : State).reg 3 = 0) ∧
    (∀ x, Instr.cls ≠ .ldStVx x) ∧ ∃ t, exec .cls State.reset = .next t :=
  ⟨⟨⟨by decide, by decide⟩, by decide, by decide⟩, by decide, ⟨⟨by decide, by decide⟩, by decide, by decide⟩, by decide,
    fun x => by simp, _, rfl⟩

/-- One ready state for each way to take a fault: the fetch, RET, CALL, the four data accesses, the two key skips. -/
def faultingStates : List State :=
  [{ State.reset with pc := 0x0FFF }, testState 0x00EE, { testState 0x2ABC with sp := 16 },
    (testState 0xD122).setIndex 0x0FFF, (testState 0xF233).setIndex 0x0FFE, (testState 0xFF55).setIndex 0x0FF1,
    (testState 0xF165).setIndex 0x0FFF, (testState 0xE59E).setReg 5 0x10, (testState 0xE5A1).setReg 5 0x10]

/-- FaultsArePrecise and FaultCausesAndTheirOrder: each of these is ready and ends halted. -/
theorem test_witness_faults : faultingStates.map (fun s => (s.config.wf, s.halt, (after s).map (fun t => t.cause.code))) =
    [1, 2, 3, 4, 4, 4, 4, 5, 5].map (fun c => (true, false, some c)) := by decide

/-- A state inside a subroutine: one entry on the stack, one byte stored, LD B,V2 next. -/
def calledState : State :=
  { ((testState 0xF233).writeByte 0x300 7).setIndex 0x300 with
    sp := 1, stack := 0x0456 :: List.replicate 15 0, tdiv := 9, dt := 3 }

/-- StepKeepsTheInvariant and EveryCycleAnswers: this state has the invariant, and a step answers. -/
theorem test_witness_invariant : calledState.Inv ∧ ∃ t, step calledState = .next t := by
  refine ⟨⟨by decide, by decide, by decide, by decide, ?_, by decide, by decide, by decide, by decide⟩, _, rfl⟩
  intro k r hk hr
  have h0 : k = 0 := Nat.lt_one_iff.mp hk
  subst h0
  have h1 : some 0x0456#16 = some r := hr
  cases h1
  decide

/-- HostOperationsKeepTheInvariant: a session with the invariant before its first tick, and an operation that answers. -/
theorem test_witness_session :
    (Session.fresh { calledState with tdiv := 0 }).Inv ∧
    ∃ h' r, hostStep (.loadImage [0x60, 0x2A]) (Session.fresh { calledState with tdiv := 0 }) = .next (h', r) := by
  refine ⟨⟨⟨by decide, by decide, by decide, by decide, ?_, by decide, by decide, by decide, by decide⟩, fun _ => rfl⟩, _, _, rfl⟩
  exact test_witness_invariant.1.entries

/-- EqualMemoriesAreEqualData: two ways to the same bytes. -/
theorem test_witness_memories :
    (Memory.write customaryFont [] 0x300 5).wf customaryFont = true ∧
    ((((Memory.write customaryFont [] 0x301 9).write customaryFont 0x300 5).write customaryFont 0x301 0)).wf
      customaryFont = true ∧
    ∀ a, a < 4096 → (Memory.write customaryFont [] 0x300 5).read customaryFont a =
      (((Memory.write customaryFont [] 0x301 9).write customaryFont 0x300 5).write customaryFont 0x301 0).read
        customaryFont a := by
  refine ⟨by decide, by decide, fun a _ => ?_⟩
  have h : Memory.write customaryFont [] 0x300 5 =
      ((Memory.write customaryFont [] 0x301 9).write customaryFont 0x300 5).write customaryFont 0x301 0 := by decide
  rw [h]

/-- ReturnPopsTheCallSite: a stack with an entry, and an empty one. -/
theorem test_witness_ret :
    (0 < calledState.sp ∧ calledState.stack[calledState.sp - 1]? = some 0x0456#16) ∧
    ((testState 0x00EE).sp = 0 ∧ (testState 0x00EE).fetch = some 0x00EE#16) := by decide

/-- CallPushesItsOwnAddress and CallThenReturnResumes: the last free entry, and a full stack. -/
theorem test_witness_call :
    (({ testState 0x2ABC with sp := 15 } : State).sp < State.reset.config.stackDepth ∧
      (testState 0x2ABC).stack.length = State.reset.config.stackDepth) ∧
    (({ testState 0x2ABC with sp := 16 } : State).sp = State.reset.config.stackDepth ∧
      ({ testState 0x2ABC with sp := 16 } : State).fetch = some 0x2ABC#16) := by decide

/-- StackIndexOutsideTheStackStops: states no run reaches. -/
theorem test_witness_stack_index :
    (({ State.reset with sp := 17 } : State).sp ≠ 0 ∧ ({ State.reset with sp := 17 } : State).stack[17 - 1]? = none) ∧
    (({ State.reset with stack := [] } : State).sp ≠ State.reset.config.stackDepth ∧
      ({ State.reset with stack := [] } : State).stack.length ≤ 0) := by decide

/-- SkipsOnAnImmediate, SkipsOnTwoRegisters: a state on which the condition holds and one on which it does not. -/
theorem test_witness_skips :
    (State.reset.setReg 3 0x2A).reg 3 = 0x2A ∧ (State.reset.setReg 3 0x2B).reg 3 ≠ 0x2A ∧
    ((State.reset.setReg 1 7).setReg 2 7).reg 1 = ((State.reset.setReg 1 7).setReg 2 7).reg 2 ∧
    ((State.reset.setReg 1 7).setReg 2 8).reg 1 ≠ ((State.reset.setReg 1 7).setReg 2 8).reg 2 := by decide

/-- PcAfterEachInstruction: a handler that takes a fault and one that completes, from states not halted. -/
theorem test_witness_pc :
    (∃ t, exec .ret State.reset = .next t ∧ State.reset.halt = false ∧ t.halt = true) ∧
    (∃ t, exec (.skp 5) State.reset = .next t ∧ State.reset.halt = false ∧ t.halt = false) :=
  ⟨⟨_, rfl, by decide, by decide⟩, _, rfl, by decide, by decide⟩

/-- FlagWritingArithmetic: an X that is not VF. -/
theorem test_witness_flag_destination : (1 : RegNum) ≠ 15 := by decide

/-- OnlyRandomReadsTheDraws, and the frames over all instructions: an instruction that is neither RND nor a writer. -/
theorem test_witness_other_instruction :
    (∀ x nn, Instr.jp 0x234#12 ≠ .rnd x nn) ∧ (∀ x, Instr.jp 0x234#12 ≠ .ldBVx x ∧ Instr.jp 0x234#12 ≠ .ldMemVx x) ∧
    (∀ nnn, Instr.jp 0x234#12 ≠ .call nnn) ∧ Instr.jp 0x234#12 ≠ .ret ∧ Instr.jp 0x234#12 ≠ .cls ∧
    (∀ x y n, Instr.jp 0x234#12 ≠ .drw x y n) ∧ ∃ t, exec (.jp 0x234#12) State.reset = .next t :=
  ⟨by simp, by simp, by simp, by simp, by simp, by simp, _, rfl⟩

/-- A sprite row at 0x0FFF, drawn at (4, 2) over one set cell, offset 132. -/
def drawState : State :=
  { (((testState 0xD121).setIndex 0x0FFF).writeByte 0x0FFF 0x81).setReg 1 4 |>.setReg 2 2 with
    fb := (Vector.replicate 32 0).set 2 0x10 }

/-- DrawFlipsTheCoveredCells and the draws of DataRangeIsCheckedFirst: in range at the last byte, a covered cell that is set,
one that is not covered; N = 0 with I anywhere; one byte too many. -/
theorem test_witness_draw :
    ¬TouchesOutside drawState 1 ∧ SpriteCovers drawState 1 2 1 132 ∧ drawState.pixel 132 = true ∧
    ¬SpriteCovers drawState 1 2 1 133 ∧
    ¬TouchesOutside (State.reset.setIndex 0xFFFF) 0 ∧
    (TouchesOutside drawState 2 ∧ drawState.fetch = some 0xD121#16) := by
  refine ⟨by unfold TouchesOutside; decide, ⟨0, 0, by decide, by decide, by decide, by decide⟩, by decide, ?_,
    by unfold TouchesOutside; decide, by unfold TouchesOutside; decide, by decide⟩
  rintro ⟨row, col, hr, hc, hb, ho⟩
  have h1 : row = 0 := Nat.lt_one_iff.mp hr
  subst h1
  have h2 : 133 = 4 + col + (2 + 0) * 64 := ho
  have h3 : col = 1 := by omega
  subst h3
  exact absurd hb (by decide)

/-- The row 0F at (60, 31): its first set bit is at offset 2048 (95_test_vectors.md, "Graphics"). -/
def clippedState : State :=
  (((testState 0xD121).setIndex 0x300).writeByte 0x300 0x0F).setReg 1 60 |>.setReg 2 31

/-- No covered cell is set: the other flag clause of DrawFlipsTheCoveredCells, and the first clause of DrawTwiceRestores. -/
theorem test_witness_draw_clear :
    ¬TouchesOutside { drawState with fb := Vector.replicate 32 0 } 1 ∧ (1 : RegNum) ≠ 15 ∧ (2 : RegNum) ≠ 15 ∧
    (∀ off, off < 2048 → SpriteCovers { drawState with fb := Vector.replicate 32 0 } 1 2 1 off →
      ({ drawState with fb := Vector.replicate 32 0 } : State).pixel off = false) ∧
    (∃ off, off < 2048 ∧ SpriteCovers { drawState with fb := Vector.replicate 32 0 } 1 2 1 off) := by
  refine ⟨by unfold TouchesOutside; decide, by decide, by decide, fun off ho _ => ?_, 132, by decide, 0, 0, by decide, by decide,
    by decide, by decide⟩
  simp [State.pixel, Framebuffer.cell]

/-- DrawTwiceRestores, second clause: a sprite clipped whole, 0F at (60, 31). -/
theorem test_witness_draw_clipped :
    ¬TouchesOutside clippedState 1 ∧ ∀ off, off < 2048 → ¬SpriteCovers clippedState 1 2 1 off := by
  refine ⟨by unfold TouchesOutside; decide, fun off ho => ?_⟩
  rintro ⟨row, col, hr, hc, hb, he⟩
  have h1 : row = 0 := Nat.lt_one_iff.mp hr
  subst h1
  have h2 : off = 60 + col + (31 + 0) * 64 := he
  have h3 : ∀ c, c < 4 → (clippedState.readByte 0x300).getLsbD (7 - c) = false := by decide
  have h4 : (clippedState.readByte 0x300).getLsbD (7 - col) = true := hb
  have h5 : ¬col < 4 := fun h => by rw [h3 col h] at h4; exact absurd h4 (by decide)
  omega

/-- DrawTwiceRestores, second clause: an all-zero sprite, and an origin below the screen. -/
theorem test_witness_draw_nothing :
    (¬TouchesOutside (testState 0xD123 |>.setIndex 0x300) 3 ∧
      ∀ k, k < (3 : BitVec 4).toNat → (testState 0xD123 |>.setIndex 0x300).readByte (0x300 + k) = 0) ∧
    (¬TouchesOutside { drawState with v := (drawState.setReg 2 32).v } 1 ∧
      32 ≤ (({ drawState with v := (drawState.setReg 2 32).v } : State).reg 2).toNat) := by
  exact ⟨⟨by unfold TouchesOutside; decide, by decide⟩, by unfold TouchesOutside; decide, by decide⟩

/-- ReadDelayTimer and SetDelayTimer, on each side of the cadence. -/
theorem test_witness_delay :
    Fetches { testState 0xF207 with dt := 0x3C } 0xF207 (.ldVxDt 2) ∧
    Fetches { testState 0xF015 with tdiv := 8 } 0xF015 (.ldDtVx 0) ∧
    Fetches { testState 0xF015 with tdiv := 9 } 0xF015 (.ldDtVx 0) :=
  ⟨⟨⟨by decide, by decide⟩, by decide, by decide⟩, ⟨⟨by decide, by decide⟩, by decide, by decide⟩,
    ⟨by decide, by decide⟩, by decide, by decide⟩

/-- SkipsOnAKey at its boundary: index 15, down and up, and index 16. -/
theorem test_witness_keys :
    ((State.reset.setReg 5 15).reg 5).toNat ≤ 15 ∧ (State.reset.setReg 5 15).keyDown 15 = false ∧
    ({ State.reset.setReg 5 15 with keys := 0x8000 } : State).keyDown 15 = true ∧
    15 < (((testState 0xE59E).setReg 5 16).reg 5).toNat ∧ ((testState 0xE59E).setReg 5 16).fetch = some 0xE59E#16 ∧
    ∃ t, exec (.ldVxK 5) (State.reset.setReg 5 16) = .next t :=
  ⟨by decide, by decide, by decide, by decide, by decide, _, rfl⟩

/-- WaitForKey: keys 7 and 9 down, the highest key alone, and none. -/
theorem test_witness_wait :
    (({ State.reset with keys := 0x0280 } : State).keyDown 7 = true ∧
      ∀ j, j < 7 → ({ State.reset with keys := 0x0280 } : State).keyDown j = false) ∧
    (({ State.reset with keys := 0x8000 } : State).keyDown 15 = true ∧
      ∀ j, j < 15 → ({ State.reset with keys := 0x8000 } : State).keyDown j = false) ∧
    (∀ j, j < 16 → State.reset.keyDown j = false) ∧ (testState 0xF30A).config.wf = true ∧ (testState 0xF30A).Waiting :=
  ⟨by decide, by decide, by decide, by decide, by decide, ⟨0xF30A#16, 3, by decide, by decide⟩, by decide⟩

/-- StoreDecimalDigits, RegisterDump, RegisterLoad, DumpThenLoadRestores and the accesses of DataRangeIsCheckedFirst: the last
legal index and the first illegal one of each. -/
theorem test_witness_data_ranges :
    (0x0FFD + 2 ≤ 4095 ∧ ¬TouchesOutside ((testState 0xF233).setIndex 0x0FFD) 3) ∧
    (4095 < 0x0FFE + 2 ∧ TouchesOutside ((testState 0xF233).setIndex 0x0FFE) 3 ∧
      ((testState 0xF233).setIndex 0x0FFE).fetch = some 0xF233#16) ∧
    (((testState 0xFF55).setIndex 0x0FF0).index.toNat + (15 : RegNum).toNat ≤ 4095 ∧
      ¬TouchesOutside ((testState 0xFF55).setIndex 0x0FF0) ((15 : RegNum).toNat + 1)) ∧
    (4095 < ((testState 0xFF55).setIndex 0x0FF1).index.toNat + (15 : RegNum).toNat ∧
      TouchesOutside ((testState 0xFF55).setIndex 0x0FF1) ((15 : RegNum).toNat + 1) ∧
      ((testState 0xFF55).setIndex 0x0FF1).fetch = some 0xFF55#16) ∧
    (((testState 0xF165).setIndex 0x0FFE).index.toNat + (1 : RegNum).toNat ≤ 4095 ∧
      ¬TouchesOutside ((testState 0xF165).setIndex 0x0FFE) ((1 : RegNum).toNat + 1)) ∧
    (4095 < ((testState 0xF165).setIndex 0x0FFF).index.toNat + (1 : RegNum).toNat ∧
      TouchesOutside ((testState 0xF165).setIndex 0x0FFF) ((1 : RegNum).toNat + 1) ∧
      ((testState 0xF165).setIndex 0x0FFF).fetch = some 0xF165#16 ∧ ((testState 0xF165).setIndex 0x0FFF).halt = false) := by
  unfold TouchesOutside; decide

/-- StoreIsSeenByTheNextFetch: both stores in range, the fetch at the first stored byte, and one byte before it. -/
theorem test_witness_store_then_fetch :
    ((testState 0xF155).setIndex 0x204).index.toNat + (1 : RegNum).toNat ≤ 4095 ∧
    ((testState 0xF155).setIndex 0x204).index.toNat + 2 ≤ 4095 ∧
    (0x204#16).toNat + 1 ≤ 4095 ∧ (0x203#16).toNat + 1 ≤ 4095 := by decide

/-- WritersOfTheFlag: an instruction that changes VF. -/
theorem test_witness_flag_changes :
    ∃ t, exec (.shl 1) (State.reset.setReg 1 0x81) = .next t ∧ t.reg 15 ≠ (State.reset.setReg 1 0x81).reg 15 :=
  ⟨_, rfl, by decide⟩

/-- DirtyAndSinksAreInvisible, DirtyIsClearedByTheHostOnly, KeysAreWrittenByTheHostOnly: a step that answers, DIRTY set. -/
theorem test_witness_dirty :
    ({ testState 0x1200 with dirty := true } : State).dirty = true ∧ ∃ t, step { testState 0x1200 with dirty := true } = .next t :=
  ⟨rfl, _, rfl⟩

/-- LoadImagePlacesTheProgram: the longest image, one byte more, and a session after its first cycle. -/
theorem test_witness_load_image :
    (Session.fresh State.reset).beforeCycle = true ∧ (List.replicate 3584 (0x12 : Byte)).length ≤ 3584 ∧
    3584 < (List.replicate 3585 (0x12 : Byte)).length ∧ haltedSession.beforeCycle = false ∧
    HostOp.readStatus ≠ .reset ∧ HostOp.readStatus ≠ .cycle ∧
    ∃ h' r, hostStep .readStatus haltedSession = .next (h', r) :=
  ⟨rfl, by rw [List.length_replicate], by rw [List.length_replicate]; decide, rfl, by decide, by decide, _, _, rfl⟩

/-- TickRunsItsCycles: no cycle a tick, a first cycle with KEY supplied, and a session between ticks with as many vectors as
its tick has cycles. -/
theorem test_witness_tick :
    ({ State.reset with config := { defaultConfig with cyclesPerUpdate := 0 } } : State).config.cyclesPerUpdate = 0 ∧
    (∃ t, step (State.reset.setKeys 0x0280) = .next t) ∧
    (Session.fresh State.reset).cyclesLeft = 0 ∧
    [0x0280#16].length = (Session.fresh State.reset).state.config.cyclesPerUpdate ∧
    ∃ t, tick [0x0280#16] (Session.fresh State.reset).state = .next t :=
  ⟨rfl, ⟨_, rfl⟩, rfl, rfl, _, rfl⟩

/-- HostActsBetweenTheCyclesOfATick: a session between ticks, one inside a tick, and a cycle that answers. -/
theorem test_witness_between_cycles :
    (Session.fresh State.reset).cyclesLeft = 0 ∧ haltedSession.cyclesLeft ≠ 0 ∧
    cycle haltedSession.state = .next (haltedSession.state, .halted) ∧
    (HostOp.readAndClearDirty = .reset ∨ HostOp.readAndClearDirty = .readFramebuffer ∨
      HostOp.readAndClearDirty = .readAndClearDirty) :=
  ⟨rfl, by decide, rfl, by decide⟩

/-- ConfigurationIsHeld: before the first tick with a legal cadence, after it, and a state with cadence 0. -/
theorem test_witness_configure :
    (Session.fresh State.reset).beforeTick = true ∧ 1 ≤ 3 ∧ (Session.fresh State.reset).state.config.wf = true ∧
    haltedSession.beforeTick = false ∧
    ({ State.reset with config := { defaultConfig with cyclesPerTimerDecrement := 0 } } : State).config.cyclesPerTimerDecrement
      = 0 := by decide

end Sys2Proof.Machine
end

section
/-! The state family: how each instruction leaves PC (R24), and the state after Reset (R40). -/

namespace Sys2Proof.Machine

/-! How a handler leaves PC. -/

/-- The rows of R24 for a handler that completes: what PC may read after `i` has run from `s`. -/
def PcAfter (i : Instr) (s : State) (pc : Word) : Prop :=
  match i with
  | .jp nnn | .call nnn => pc.toNat = nnn.toNat
  | .jpV0 nnn => pc.toNat = (s.reg 0).toNat + nnn.toNat
  | .ret => ∃ r, s.stack[s.sp - 1]? = some r ∧ pc = r + 2
  | .seByte x nn => pc = if s.reg x = nn then s.pc + 4 else s.pc + 2
  | .sneByte x nn => pc = if s.reg x = nn then s.pc + 2 else s.pc + 4
  | .seReg x y => pc = if s.reg x = s.reg y then s.pc + 4 else s.pc + 2
  | .sneReg x y => pc = if s.reg x = s.reg y then s.pc + 2 else s.pc + 4
  | .skp x => pc = if s.keyDown (s.reg x).toNat then s.pc + 4 else s.pc + 2
  | .sknp x => pc = if s.keyDown (s.reg x).toNat then s.pc + 2 else s.pc + 4
  | .ldVxK _ => pc = if s.keys = 0 then s.pc else s.pc + 2
  | _ => pc = s.pc + 2

/-- What is said of HALT and PC once a handler has answered: a fault was entered (R236), or HALT is as it was and PC is as
R24 says. -/
def FaultedOrMoved (i : Instr) (s t : State) : Prop :=
  (∃ c a, c ≠ .none ∧ t = s.enterFault c a) ∨ (t.halt = s.halt ∧ PcAfter i s t.pc)

/-- An address operand is its 12 bits, unmasked. -/
@[simp] theorem addrOperand_toNat (nnn : BitVec 12) : (addrOperand nnn).toNat = nnn.toNat := by
  have := nnn.isLt
  simp [addrOperand]; omega

/-- A byte operand is its 8 bits. -/
@[simp] theorem byteOperand_toNat (b : Byte) : (byteOperand b).toNat = b.toNat := by
  have := b.isLt
  simp [byteOperand]; omega

/-- The target of JP V0,addr does not wrap: it is at most 0xFF + 0xFFF (R148). -/
theorem byteOperand_add_addrOperand_toNat (b : Byte) (nnn : BitVec 12) :
    (byteOperand b + addrOperand nnn).toNat = b.toNat + nnn.toNat := by
  have hb := b.isLt
  have hn := nnn.isLt
  rw [BitVec.toNat_add, byteOperand_toNat, addrOperand_toNat]
  omega

/-- A guarded data access enters MEM_OOB, or has an effect that moves PC as R24 says (R235). -/
theorem faultedOrMoved_of_guardRange {i : Instr} {s t u : State} {len : Nat} (h : s.guardRange len u = .next t)
    (hh : u.halt = s.halt) (hp : PcAfter i s u.pc) : FaultedOrMoved i s t := by
  obtain ⟨-, rfl⟩ | ⟨-, rfl⟩ := State.guardRange_eq_next.1 h
  · exact .inl ⟨_, _, by decide, rfl⟩
  · exact .inr ⟨hh, hp⟩

/-- A guarded key skip enters KEY_OOB, or skips as R24 says (R237). -/
theorem faultedOrMoved_of_guardKey {i : Instr} {s t : State} {x : RegNum} {skip : Bool}
    (h : s.guardKey x skip = .next t) (hp : PcAfter i s (s.skipIf skip).pc) : FaultedOrMoved i s t := by
  obtain ⟨-, rfl⟩ | ⟨-, rfl⟩ := State.guardKey_eq_next.1 h
  · exact .inl ⟨_, _, by decide, rfl⟩
  · exact .inr ⟨rfl, hp⟩

/-- Every handler that answers has entered a fault with nothing else written, or has kept HALT and moved PC as R24 says. -/
theorem exec_faultedOrMoved {i : Instr} {s t : State} (h : exec i s = .next t) : FaultedOrMoved i s t := by
  cases i with
  | jp nnn => cases h; exact .inr ⟨rfl, addrOperand_toNat nnn⟩
  | jpV0 nnn => cases h; exact .inr ⟨rfl, byteOperand_add_addrOperand_toNat _ nnn⟩
  | call nnn =>
    obtain ⟨-, rfl⟩ | ⟨-, -, rfl⟩ := execCall_eq_next.1 h
    · exact .inl ⟨_, _, by decide, rfl⟩
    · exact .inr ⟨rfl, addrOperand_toNat nnn⟩
  | ret =>
    obtain ⟨-, rfl⟩ | ⟨-, r, hr, rfl⟩ := execRet_eq_next.1 h
    · exact .inl ⟨_, _, by decide, rfl⟩
    · exact .inr ⟨rfl, r, hr, rfl⟩
  | ldVxK x =>
    obtain ⟨hk, rfl⟩ | ⟨k, hk, rfl⟩ := execLdVxK_eq_next.1 h
    · exact .inr ⟨rfl, by simp [PcAfter, hk]⟩
    · have hne : s.keys ≠ 0 := fun h0 => by simp [(s.firstKey_eq_none).2 h0] at hk
      exact .inr ⟨rfl, by simp only [PcAfter, if_neg hne]; rfl⟩
  | seByte | sneByte | seReg | sneReg => cases h; exact .inr ⟨rfl, by simp [PcAfter]⟩
  | skp x => exact faultedOrMoved_of_guardKey h rfl
  | sknp x => exact faultedOrMoved_of_guardKey h (by cases hk : s.keyDown (s.reg x).toNat <;> simp [PcAfter, hk])
  | drw | ldVxMem => exact faultedOrMoved_of_guardRange h rfl rfl
  | ldBVx | ldMemVx => exact faultedOrMoved_of_guardRange h (by simp) (by simp [PcAfter])
  | _ => cases h; exact .inr ⟨rfl, rfl⟩

/-- A handler that sets HALT entered a fault, so PC still points at the faulting instruction (R236). -/
theorem exec_pc_of_fault {i : Instr} {s t : State} (h : exec i s = .next t) (hs : s.halt = false) (ht : t.halt = true) :
    t.pc = s.pc := by
  obtain ⟨c, a, -, rfl⟩ | ⟨hh, -⟩ := exec_faultedOrMoved h
  · exact s.enterFault_pc c a
  · simp [hh, hs] at ht

/-- A handler that leaves HALT = 0 completed, so PC is as its row of R24 says. -/
theorem exec_pcAfter_of_running {i : Instr} {s t : State} (h : exec i s = .next t) (ht : t.halt = false) :
    PcAfter i s t.pc := by
  obtain ⟨c, a, -, rfl⟩ | ⟨-, hp⟩ := exec_faultedOrMoved h
  · simp at ht
  · exact hp

/-- The stall of an unrecognized word leaves PC (R124). -/
@[simp] theorem State.stallCycle_pc (s : State) (w : Word) : (s.stallCycle w).pc = s.pc := by
  simp [State.stallCycle]

/-- Settles O26: a fault is entered with PC kept, a completed handler follows R24, and a stall moves no PC. -/
theorem pcAfterEachInstruction : Obligations.PcAfterEachInstruction := by
  refine ⟨fun i s t h hs ht => exec_pc_of_fault h hs ht, fun i s t h _ ht => ?_, fun s w t hr hf hd h => ?_⟩
  · have hp : PcAfter i s t.pc := exec_pcAfter_of_running h ht
    cases i <;> exact hp
  · obtain ⟨hw, hh⟩ := hr
    rw [step_of_unrecognized hw hh hf hd] at h
    cases h
    exact s.stallCycle_pc w

/-! The state after Reset (R40), one lemma per field. -/

namespace State

variable (s : State)

@[simp] theorem hostReset_v : s.hostReset.v = Vector.replicate 16 0 := rfl
@[simp] theorem hostReset_index : s.hostReset.index = 0 := rfl
@[simp] theorem hostReset_pc : s.hostReset.pc = 0x0200 := rfl
@[simp] theorem hostReset_stack : s.hostReset.stack = List.replicate s.config.stackDepth 0 := rfl
@[simp] theorem hostReset_sp : s.hostReset.sp = 0 := rfl
@[simp] theorem hostReset_dt : s.hostReset.dt = 0 := rfl
@[simp] theorem hostReset_st : s.hostReset.st = 0 := rfl
@[simp] theorem hostReset_fb : s.hostReset.fb = Vector.replicate 32 0 := rfl
@[simp] theorem hostReset_keys : s.hostReset.keys = 0 := rfl
@[simp] theorem hostReset_dirty : s.hostReset.dirty = false := rfl
@[simp] theorem hostReset_tdiv : s.hostReset.tdiv = 0 := rfl
@[simp] theorem hostReset_halt : s.hostReset.halt = false := rfl
@[simp] theorem hostReset_cause : s.hostReset.cause = .none := rfl
@[simp] theorem hostReset_epc : s.hostReset.epc = 0 := rfl
@[simp] theorem hostReset_eword : s.hostReset.eword = 0 := rfl
@[simp] theorem hostReset_eaddr : s.hostReset.eaddr = 0 := rfl
@[simp] theorem hostReset_mem : s.hostReset.mem = [] := rfl
@[simp] theorem hostReset_config : s.hostReset.config = s.config := rfl
@[simp] theorem hostReset_draws : s.hostReset.draws = s.draws := rfl
@[simp] theorem hostReset_emitted : s.hostReset.emitted = s.emitted := rfl

@[simp] theorem hostReset_reg (r : RegNum) : s.hostReset.reg r = 0 := by simp [State.reg]

@[simp] theorem hostReset_keyDown (k : Nat) : s.hostReset.keyDown k = false := by simp [State.keyDown]

/-- A reset screen is a cleared one. -/
@[simp] theorem hostReset_pixel (off : Nat) : s.hostReset.pixel off = false := s.pixel_clearScreen off

/-- With no byte listed, memory reads as its reset contents. -/
@[simp] theorem hostReset_readByte (a : Nat) : s.hostReset.readByte a = Memory.resetByte s.config.glyphRom a := rfl

end State

/-- The reset contents below 0x050 are GLYPH_ROM (R66). -/
theorem Memory.resetByte_of_lt (rom : Vector Byte 80) {a : Nat} (h : a < 80) : Memory.resetByte rom a = rom[a] := dif_pos h

/-- The reset contents from 0x050 on are 0x00 (R66). -/
theorem Memory.resetByte_of_le (rom : Vector Byte 80) {a : Nat} (h : 80 ≤ a) : Memory.resetByte rom a = 0 :=
  dif_neg (Nat.not_lt.2 h)

/-- Settles O50: each clause is the reading of one field after Reset; the model's first state is its own Reset. -/
theorem resetState : Obligations.ResetState := by
  refine ⟨fun s => ?_, rfl⟩
  have glyphs : ∀ a (h : a < 80), s.hostReset.readByte a = s.config.glyphRom[a] := fun a h =>
    (s.hostReset_readByte a).trans (Memory.resetByte_of_lt _ h)
  have zeros : ∀ a, 80 ≤ a → a < 4096 → s.hostReset.readByte a = 0 := fun a h _ =>
    (s.hostReset_readByte a).trans (Memory.resetByte_of_le _ h)
  exact ⟨s.hostReset_reg, rfl, rfl, rfl, by simp, by simp, rfl, rfl, fun off _ => s.hostReset_pixel off,
    fun k _ => s.hostReset_keyDown k, glyphs, zeros, rfl, rfl, rfl, rfl, rfl, rfl, rfl, rfl, rfl⟩

end Sys2Proof.Machine
end

section
/-! The memory family: the fetched word and its bound (R61, R122, R232), and the range check that comes before every data
access through I (R63, R235). -/

namespace Sys2Proof.Machine

/-! The two bytes of a fetched word (R61). -/

/-- The byte at the lower address is the high byte. -/
@[simp] theorem extractLsb'_high_wordOfBytes (hi lo : Byte) : (wordOfBytes hi lo).extractLsb' 8 8 = hi :=
  BitVec.extractLsb'_append_eq_left

/-- The byte at the higher address is the low byte. -/
@[simp] theorem extractLsb'_low_wordOfBytes (hi lo : Byte) : (wordOfBytes hi lo).extractLsb' 0 8 = lo :=
  BitVec.extractLsb'_append_eq_right

/-- Settles O7: a fetch in range is the word of its two bytes; out of range there is none, and the step enters FETCH_OOB. -/
theorem fetchAndItsBound : Obligations.FetchAndItsBound := by
  refine ⟨fun s hp => ?_, fun s hp => s.fetch_eq_none.2 hp, fun s hr hp => ?_⟩
  · exact ⟨_, (s.fetch_eq_some _).2 ⟨hp, rfl⟩, extractLsb'_high_wordOfBytes _ _, extractLsb'_low_wordOfBytes _ _⟩
  · obtain ⟨hw, hh⟩ := hr
    have hf : s.fetch = none := s.fetch_eq_none.2 hp
    exact ⟨_, step_of_no_fetch hw hh hf, tookFault_enterFault .fetchOob s.pc (by rw [hf]; rfl)⟩

/-! The data accesses through I (R63). -/

/-- `i` accesses the `len` bytes of MEM from I on: a sprite, three digits, or V0..VX (R190, R221, R222, R223). -/
def AccessesThroughI (i : Instr) (len : Nat) : Prop :=
  (∃ x y n, i = .drw x y n ∧ len = n.toNat) ∨ (∃ x, i = .ldBVx x ∧ len = 3) ∨
    (∃ x, i = .ldMemVx x ∧ len = x.toNat + 1) ∨ (∃ x, i = .ldVxMem x ∧ len = x.toNat + 1)

/-- Every data access through I is the range check of its bytes before an effect that writes no fault register and
advances PC. -/
theorem AccessesThroughI.exec_eq_guardRange {i : Instr} {len : Nat} (h : AccessesThroughI i len) (s : State) :
    ∃ u, exec i s = s.guardRange len u ∧ KeepsFaultRegs s u ∧ u.pc = s.pc + 2 := by
  obtain ⟨x, y, n, rfl, rfl⟩ | ⟨x, rfl, rfl⟩ | ⟨x, rfl, rfl⟩ | ⟨x, rfl, rfl⟩ := h
  · exact ⟨_, rfl, ⟨rfl, rfl, rfl, rfl, rfl⟩, rfl⟩
  · exact ⟨_, rfl, by simp [KeepsFaultRegs], by simp⟩
  · exact ⟨_, rfl, by simp [KeepsFaultRegs], by simp⟩
  · exact ⟨_, rfl, ⟨rfl, rfl, rfl, rfl, rfl⟩, rfl⟩

/-- An instruction that checks its range takes MEM_OOB, with nothing else written, when the range is not in MEM (R235). -/
theorem memOobAt_of_guardRange {i : Instr} {s u : State} {len : Nat} {w : Word} (he : exec i s = s.guardRange len u)
    (hf : s.fetch = some w) (h : TouchesOutside s len) : MemOobAt i s w :=
  ⟨_, he.trans (State.guardRange_of_touchesOutside u h), tookFault_enterFault .memOob _ (by rw [hf]; rfl)⟩

/-- Settles O44: all four accesses are one range check before one effect, so the check decides between fault and effect. -/
theorem dataRangeIsCheckedFirst : Obligations.DataRangeIsCheckedFirst := by
  intro i len s w hf _ (hi : AccessesThroughI i len)
  obtain ⟨u, he, hregs, hpc⟩ := hi.exec_eq_guardRange s
  exact ⟨memOobAt_of_guardRange he hf, fun hin => ⟨u, he.trans (State.guardRange_of_inside u hin), hregs, hpc⟩⟩

end Sys2Proof.Machine
end

section
/-! The encoding family: the second levels of families 0, 8, E and F, and the low nibble that families 5 and 9 do not read
(R95 to R99). -/

namespace Sys2Proof

/-! The families with a second level, and families 5 and 9: where the leading nibble routes a word (R94). -/

section routes

variable {w : Word}

theorem decodeWord_of_family0 (h : familyField w = 0x0#4) : decodeWord w = decodeFamily0 w := by
  simp [decodeWord, h]

theorem decodeWord_of_family5 (h : familyField w = 0x5#4) :
    decodeWord w = .recognized (.seReg (xField w) (yField w)) := by
  simp [decodeWord, h]

theorem decodeWord_of_family8 (h : familyField w = 0x8#4) : decodeWord w = decodeFamily8 w := by
  simp [decodeWord, h]

theorem decodeWord_of_family9 (h : familyField w = 0x9#4) :
    decodeWord w = .recognized (.sneReg (xField w) (yField w)) := by
  simp [decodeWord, h]

theorem decodeWord_of_familyE (h : familyField w = 0xE#4) : decodeWord w = decodeFamilyE w := by
  simp [decodeWord, h]

theorem decodeWord_of_familyF (h : familyField w = 0xF#4) : decodeWord w = decodeFamilyF w := by
  simp [decodeWord, h]

/-- Words of families 5 and 9 that differ in the low nibble decode alike (R99). -/
theorem decodeWord_setLowNibble (n : BitVec 4) (h : familyField w = 0x5#4 ∨ familyField w = 0x9#4) :
    decodeWord (nibbles (familyField w) (xField w) (yField w) n) = decodeWord w := by
  obtain h | h := h
  · rw [decodeWord_of_family5 h, decodeWord_of_family5 (by simpa using h), xField_nibbles, yField_nibbles]
  · rw [decodeWord_of_family9 h, decodeWord_of_family9 (by simpa using h), xField_nibbles, yField_nibbles]

end routes

/-- Settles O3: the leading nibble routes the word to its second level, which the claim's table reads row by row; families 5
and 9 have none, so the low nibble does not matter. The decoder compares fields and the table their values, hence
`BitVec.toNat_inj`. -/
theorem secondLevelDispatch : Obligations.SecondLevelDispatch := by
  refine ⟨fun w h => ?_, fun w h => ?_, fun w h => ?_, fun w h => ?_, fun w n h => ?_, fun x y => ?_⟩
  · exact decodeWord_of_family0 h
  · rw [decodeWord_of_family8 h]
    split <;> simp_all [decodeFamily8, ← BitVec.toNat_inj]
  · rw [decodeWord_of_familyE h]
    split <;> simp_all [decodeFamilyE, ← BitVec.toNat_inj]
  · rw [decodeWord_of_familyF h]
    split <;> simp_all [decodeFamilyF, ← BitVec.toNat_inj]
  · exact ⟨decodeWord_setLowNibble n h, decodeWord_of_family5, decodeWord_of_family9⟩
  · exact ⟨nField_nibbles .., nField_nibbles ..⟩

end Sys2Proof
end

section
/-! The fetch and decode family: a halted CORE stays halted until Reset (R121, R270). -/

namespace Sys2Proof.Machine

/-- A cycle that answers on a halted CORE leaves its state as it was (R121). -/
theorem cycle_state_eq_of_halt {s t : State} {e : CycleEnd} (h : cycle s = .next (t, e)) (hh : s.halt = true) :
    t = s := by
  obtain ⟨-, ⟨-, ht, -⟩ | ⟨hrun, -⟩⟩ := cycle_cases h
  · exact ht
  · simp [hh] at hrun

/-- Of the host's moves only Reset and a cycle can change HALT (R254). -/
theorem hostStep_halt {op : HostOp} {h h' : Session} {r : Reply} (hr : op ≠ .reset) (hc : op ≠ .cycle)
    (ho : hostStep op h = .next (h', r)) : h'.state.halt = h.state.halt := by
  cases op with
  | reset => exact absurd rfl hr
  | cycle => exact absurd rfl hc
  | configure u d tr =>
    obtain ⟨-, -, rfl, -⟩ := Session.configure_eq_next.1 ho
    rfl
  | loadImage bytes =>
    obtain ⟨-, -, rfl, -⟩ := Session.loadImage_eq_next.1 ho
    exact State.storeBytes_halt ..
  | tick =>
    obtain ⟨-, rfl, -⟩ := Session.beginTick_eq_next.1 ho
    rfl
  | setKey | setKeys | readFramebuffer | readAndClearDirty | readStatus => cases ho; rfl

/-- Every move of the host but Reset leaves a halted CORE halted: its cycles do nothing, and no other move writes HALT. -/
theorem hostStep_keeps_halt {op : HostOp} {h h' : Session} {r : Reply} (hh : h.state.halt = true) (hr : op ≠ .reset)
    (ho : hostStep op h = .next (h', r)) : h'.state.halt = true := by
  by_cases hc : op = .cycle
  · subst hc
    obtain ⟨-, t, e, hcyc, -, rfl⟩ := Session.cycle_eq_next.1 ho
    have ht : t = h.state := cycle_state_eq_of_halt hcyc hh
    exact ht ▸ hh
  · exact (hostStep_halt hr hc ho).trans hh

/-- Settles O6: a step keeps a halted state, every move but Reset keeps the halt, and Reset clears it. -/
theorem haltedCoreDoesNothing : Obligations.HaltedCoreDoesNothing :=
  ⟨fun _ hw hh => step_of_halt hw hh, fun _ _ _ _ hh hr ho => hostStep_keeps_halt hh hr ho,
    fun h => ⟨h.reset, rfl, h.state.hostReset_halt⟩⟩

end Sys2Proof.Machine
end

section
/-! The control-flow family: CLS, RET, JP, CALL, the skips and JP V0 (R140 to R148, R233, R234). -/

namespace Sys2Proof

/-! The control-flow families with no second level: where the leading nibble routes a word (R94). -/

section routes

variable {w : Word}

theorem decodeWord_of_family1 (h : familyField w = 0x1#4) : decodeWord w = .recognized (.jp (nnnField w)) := by
  simp [decodeWord, h]

theorem decodeWord_of_family2 (h : familyField w = 0x2#4) : decodeWord w = .recognized (.call (nnnField w)) := by
  simp [decodeWord, h]

theorem decodeWord_of_family3 (h : familyField w = 0x3#4) :
    decodeWord w = .recognized (.seByte (xField w) (nnField w)) := by
  simp [decodeWord, h]

theorem decodeWord_of_family4 (h : familyField w = 0x4#4) :
    decodeWord w = .recognized (.sneByte (xField w) (nnField w)) := by
  simp [decodeWord, h]

theorem decodeWord_of_familyB (h : familyField w = 0xB#4) : decodeWord w = .recognized (.jpV0 (nnnField w)) := by
  simp [decodeWord, h]

end routes

end Sys2Proof

namespace Sys2Proof.Machine

/-- A row whose mask fixes every bit holds one word, so decoding that word settles the row (R95). -/
theorem encodes_of_word {i : Instr} {val : Word} (h : decodeWord val = .recognized i) :
    Encodes 0xFFFF#16 val fun _ => i := by
  intro w hw
  have hval : w = val := BitVec.and_allOnes.symm.trans hw
  exact hval ▸ h

/-! Effects that write PC only: the jumps and the skips. -/

/-- A write of PC changes no register, not I, and nothing outside them. -/
theorem State.setPc_frame (s : State) (a : Word) :
    KeepsRegs (fun _ => False) s (s.setPc a) ∧ KeepsIndex s (s.setPc a) ∧ KeepsOutside s (s.setPc a) :=
  ⟨fun _ _ => rfl, rfl, keepsOutside_of_eq rfl⟩

section skips

variable (s : State) {c : Prop} [Decidable c]

theorem State.skipIf_pc_of_true (h : c) : (s.skipIf c).pc = s.pc + 4 := by simp [h]

theorem State.skipIf_pc_of_false (h : ¬c) : (s.skipIf c).pc = s.pc + 2 := by simp [h]

end skips

/-- Settles O22: both jumps are a write of PC, and neither target wraps at 16 bits. -/
theorem jumpsWriteThePc : Obligations.JumpsWriteThePc := by
  refine ⟨encodes_of_family fun _ => decodeWord_of_family1, encodes_of_family fun _ => decodeWord_of_familyB,
    fun nnn s => ?_, fun nnn s => ?_⟩
  · exact ⟨_, rfl, addrOperand_toNat nnn, s.setPc_frame _⟩
  · exact ⟨_, rfl, byteOperand_add_addrOperand_toNat (s.reg 0) nnn, s.setPc_frame _⟩

/-- Settles O23: both skips are a write of PC, by 4 on the condition and by 2 on its negation. -/
theorem skipsOnAnImmediate : Obligations.SkipsOnAnImmediate := by
  refine ⟨encodes_of_family fun _ => decodeWord_of_family3, encodes_of_family fun _ => decodeWord_of_family4,
    fun x nn s => ?_, fun x nn s => ?_⟩
  · exact ⟨_, rfl, s.skipIf_pc_of_true, s.skipIf_pc_of_false, s.setPc_frame _⟩
  · exact ⟨_, rfl, s.skipIf_pc_of_true, fun h => s.skipIf_pc_of_false (not_not_intro h), s.setPc_frame _⟩

/-- Settles O24: as on an immediate; the mask leaves the low nibble free and the decoder does not read it. -/
theorem skipsOnTwoRegisters : Obligations.SkipsOnTwoRegisters := by
  refine ⟨encodes_of_family fun _ => decodeWord_of_family5, encodes_of_family fun _ => decodeWord_of_family9,
    fun x y s => ?_, fun x y s => ?_⟩
  · exact ⟨_, rfl, s.skipIf_pc_of_true, s.skipIf_pc_of_false, s.setPc_frame _⟩
  · exact ⟨_, rfl, s.skipIf_pc_of_true, fun h => s.skipIf_pc_of_false (not_not_intro h), s.setPc_frame _⟩

/-- Settles O18: CLS is a cleared screen and an advance, so only FB, DIRTY and PC differ. -/
theorem clearScreenZeroesTheFramebuffer : Obligations.ClearScreenZeroesTheFramebuffer := by
  refine ⟨encodes_of_word (by decide), fun s => ?_⟩
  exact ⟨_, rfl, fun off _ => s.pixel_clearScreen off, rfl, rfl, fun _ _ => rfl, rfl, fun _ => rfl, ⟨rfl, rfl⟩,
    ⟨rfl, rfl, rfl⟩, ⟨rfl, rfl, rfl, rfl, rfl⟩, ⟨rfl, rfl⟩, rfl, rfl⟩

/-! The stack instructions. -/

/-- Everything RET and CALL leave alone when they complete: all of the state but PC and the call stack. -/
def KeepsAllButPcAndStack (s t : State) : Prop :=
  KeepsRegs (fun _ => False) s t ∧ KeepsIndex s t ∧ KeepsMem s t ∧ KeepsTimers s t ∧ KeepsScreen s t ∧
    KeepsFaultRegs s t ∧ KeepsInputs s t ∧ KeepsDraws s t ∧ KeepsSinks s t

theorem keepsAllButPcAndStack_of_eq {s t : State} (h : t = { s with pc := t.pc, stack := t.stack, sp := t.sp }) :
    KeepsAllButPcAndStack s t := by
  rw [h]
  exact ⟨fun _ _ => rfl, rfl, fun _ => rfl, ⟨rfl, rfl, rfl⟩, ⟨fun _ => rfl, rfl⟩, ⟨rfl, rfl, rfl, rfl, rfl⟩, ⟨rfl, rfl⟩,
    rfl, rfl⟩

/-- Settles O19: `execRet_eq_next` names the two outcomes, and the hypothesis on SP picks one. -/
theorem returnPopsTheCallSite : Obligations.ReturnPopsTheCallSite := by
  refine ⟨encodes_of_word (by decide), fun s r hsp hr => ?_, fun s hsp hf => ?_⟩
  · have hret : execRet s = .next (s.dropTop.setPc (r + 2)) := execRet_eq_next.2 (.inr ⟨hsp.ne', r, hr, rfl⟩)
    exact ⟨_, hret, rfl, rfl, rfl, keepsAllButPcAndStack_of_eq rfl⟩
  · have hret : execRet s = .next (s.enterFault .stackUnderflow 0) := execRet_eq_next.2 (.inl ⟨hsp, rfl⟩)
    exact ⟨_, hret, tookFault_enterFault .stackUnderflow 0 (by rw [hf]; rfl)⟩

/-- Settles O20: `execCall_eq_next` names the two outcomes; the push writes entry SP, which lies in the stack, and no
other. -/
theorem callPushesItsOwnAddress : Obligations.CallPushesItsOwnAddress := by
  refine ⟨encodes_of_family fun _ => decodeWord_of_family2, fun nnn s hsp hlen => ?_, fun nnn s w hsp hf => ?_⟩
  · have hin : s.sp < s.stack.length := hlen ▸ hsp
    have hcall : execCall nnn s = .next ((s.push s.pc).setPc (addrOperand nnn)) :=
      execCall_eq_next.2 (.inr ⟨hsp.ne, hin, rfl⟩)
    exact ⟨_, hcall, addrOperand_toNat nnn, rfl, List.getElem?_set_self hin, fun k hk => List.getElem?_set_ne hk.symm,
      keepsAllButPcAndStack_of_eq rfl⟩
  · have hcall : execCall nnn s = .next (s.enterFault .stackOverflow 0) := execCall_eq_next.2 (.inl ⟨hsp, rfl⟩)
    exact ⟨_, hcall, tookFault_enterFault .stackOverflow 0 (by rw [hf]; rfl)⟩

end Sys2Proof.Machine
end

section
/-! The arithmetic and logic family: the loads, ADD Vx,byte, the bitwise instructions, and the five instructions that write a
flag (R160 to R171). -/

namespace Sys2Proof

/-! Where the leading nibble routes a word of families 6 and 7 (R94). -/

section routes

variable {w : Word}

theorem decodeWord_of_family6 (h : familyField w = 0x6#4) :
    decodeWord w = .recognized (.ldByte (xField w) (nnField w)) := by
  simp [decodeWord, h]

theorem decodeWord_of_family7 (h : familyField w = 0x7#4) :
    decodeWord w = .recognized (.addByte (xField w) (nnField w)) := by
  simp [decodeWord, h]

end routes

end Sys2Proof

namespace Sys2Proof.Machine

/-- A row of family 8 is settled by what the second level does with its low nibble (R96). -/
theorem encodes_of_family8 {f : Word → Instr} {val : Word} (hval : familyField val = 0x8#4)
    (h : ∀ w, nField w = nField val → decodeFamily8 w = .recognized (f w)) : Encodes 0xF00F#16 val f :=
  encodes_of_family_n fun w hf hn => (decodeWord_of_family8 (hf.trans hval)).trans (h w hn)

/-! The effect of an instruction that writes one register and advances. -/

namespace State

variable (s : State) (x : RegNum) (f b : Byte)

theorem setReg_advance_reg_self : (s.setReg x b).advance.reg x = b := by simp

/-- It leaves every register but V[X], I, and everything outside them. -/
theorem setReg_advance_frame :
    (s.setReg x b).advance.pc = s.pc + 2 ∧ KeepsRegs (· = x) s (s.setReg x b).advance ∧
      KeepsIndex s (s.setReg x b).advance ∧ KeepsOutside s (s.setReg x b).advance :=
  ⟨rfl, fun r hr => by simp [hr], rfl, keepsOutside_of_eq rfl⟩

/-! The effect of a flag-writing instruction: VF, then V[X], then the advance (R160). -/

/-- The result is written last, so it wins for X = 15. -/
theorem reg_setFlagThenReg_advance (r : RegNum) :
    (s.setFlagThenReg x f b).advance.reg r = if r = x then b else if r = 15 then f else s.reg r := by
  rw [advance_eq, setPc_reg, setFlagThenReg_eq, reg_setReg, reg_setReg]

theorem setFlagThenReg_advance_reg_self : (s.setFlagThenReg x f b).advance.reg x = b :=
  (s.reg_setFlagThenReg_advance x f b x).trans (if_pos rfl)

theorem setFlagThenReg_advance_flag {x : RegNum} (hx : x ≠ 15) : (s.setFlagThenReg x f b).advance.reg 15 = f := by
  rw [reg_setFlagThenReg_advance, if_neg hx.symm, if_pos rfl]

/-- It leaves every register but V[X] and VF, I, and everything outside them. -/
theorem setFlagThenReg_advance_frame :
    (s.setFlagThenReg x f b).advance.pc = s.pc + 2 ∧
      KeepsRegs (fun r => r = x ∨ r = 15) s (s.setFlagThenReg x f b).advance ∧
      KeepsIndex s (s.setFlagThenReg x f b).advance ∧ KeepsOutside s (s.setFlagThenReg x f b).advance := by
  refine ⟨rfl, fun r hr => ?_, rfl, keepsOutside_of_eq rfl⟩
  obtain ⟨hx, hf⟩ := not_or.1 hr
  rw [reg_setFlagThenReg_advance, if_neg hx, if_neg hf]

end State

/-! The exact values of byte results and of the shift flags (R173). -/

/-- A byte difference borrows from 256 (R168, R170). -/
theorem byte_sub_toNat (a b : Byte) : (a - b).toNat = (a.toNat + 256 - b.toNat) % 256 := by
  have hb := b.isLt
  rw [BitVec.toNat_sub]
  omega

/-- The flag of SHR is the parity (R169). -/
theorem shrFlag_toNat (a : Byte) : (shrFlag a).toNat = a.toNat % 2 :=
  (BitVec.toNat_and ..).trans (Nat.and_one_is_mod _)

/-- The flag of SHL is the top bit in place (R171). -/
theorem shlFlag_eq (a : Byte) : shlFlag a = if 128 ≤ a.toNat then 0x80 else 0x00 := by
  have htop : a.getLsbD 7 = decide (128 ≤ a.toNat) := a.msb_eq_getLsbD_last.symm.trans a.msb_eq_decide
  calc shlFlag a = if a.getLsbD 7 then BitVec.twoPow 8 7 else 0 := BitVec.and_twoPow a 7
    _ = if 128 ≤ a.toNat then 0x80 else 0x00 := by simp only [htop, decide_eq_true_eq]; rfl

/-- Settles O29: each instruction writes its flag and then its result, both computed from the old registers. -/
theorem flagWritingArithmetic : Obligations.FlagWritingArithmetic := by
  refine ⟨⟨?_, ?_, ?_, ?_, ?_⟩, fun x y s => ⟨?_, ?_, ?_, ?_, ?_⟩⟩
  iterate 5 exact encodes_of_family8 (by decide) fun w hn => by rw [decodeFamily8, hn]; rfl
  · refine ⟨_, rfl, ?_, s.setFlagThenReg_advance_flag _ _, s.setFlagThenReg_advance_frame ..⟩
    rw [State.setFlagThenReg_advance_reg_self, BitVec.toNat_add]
  · refine ⟨_, rfl, ?_, s.setFlagThenReg_advance_flag _ _, s.setFlagThenReg_advance_frame ..⟩
    rw [State.setFlagThenReg_advance_reg_self, byte_sub_toNat]
  · refine ⟨_, rfl, ?_, s.setFlagThenReg_advance_flag _ _, s.setFlagThenReg_advance_frame ..⟩
    rw [State.setFlagThenReg_advance_reg_self, byte_sub_toNat]
  · refine ⟨_, rfl, ?_, fun hx => ?_, s.setFlagThenReg_advance_frame ..⟩
    · rw [State.setFlagThenReg_advance_reg_self, BitVec.toNat_ushiftRight, Nat.shiftRight_one]
    · rw [s.setFlagThenReg_advance_flag _ _ hx, shrFlag_toNat]
  · refine ⟨_, rfl, ?_, fun hx => ?_, s.setFlagThenReg_advance_frame ..⟩
    · rw [State.setFlagThenReg_advance_reg_self, BitVec.toNat_shiftLeft, Nat.shiftLeft_eq, pow_one]
    · rw [s.setFlagThenReg_advance_flag _ _ hx, shlFlag_eq]

/-- Settles O27: both write one register; the sum wraps at 8 bits. -/
theorem immediateLoadAndAdd : Obligations.ImmediateLoadAndAdd := by
  refine ⟨encodes_of_family fun _ => decodeWord_of_family6, encodes_of_family fun _ => decodeWord_of_family7,
    fun x nn s => ?_, fun x nn s => ?_⟩
  · exact ⟨_, rfl, s.setReg_advance_reg_self x nn, s.setReg_advance_frame x nn⟩
  · refine ⟨_, rfl, ?_, s.setReg_advance_frame ..⟩
    rw [State.setReg_advance_reg_self, BitVec.toNat_add]

/-- Settles O28: all four write one register; the bits of the bitwise ones are read off one by one. -/
theorem assignAndBitwise : Obligations.AssignAndBitwise := by
  refine ⟨⟨?_, ?_, ?_, ?_⟩, fun x y s => ⟨?_, ?_, ?_, ?_⟩⟩
  iterate 4 exact encodes_of_family8 (by decide) fun w hn => by rw [decodeFamily8, hn]; rfl
  · exact ⟨_, rfl, s.setReg_advance_reg_self .., s.setReg_advance_frame ..⟩
  · refine ⟨_, rfl, fun k => ?_, s.setReg_advance_frame ..⟩
    rw [State.setReg_advance_reg_self, BitVec.getLsbD_or]
  · refine ⟨_, rfl, fun k => ?_, s.setReg_advance_frame ..⟩
    rw [State.setReg_advance_reg_self, BitVec.getLsbD_and]
  · refine ⟨_, rfl, fun k => ?_, s.setReg_advance_frame ..⟩
    rw [State.setReg_advance_reg_self, BitVec.getLsbD_xor]

end Sys2Proof.Machine
end

section
/-! The graphics family: the cells a draw flips, its collision flag, and what it leaves unchanged (R190). -/

namespace Sys2Proof

theorem decodeWord_of_familyD {w : Word} (h : familyField w = 0xD#4) :
    decodeWord w = .recognized (.drw (xField w) (yField w) (nField w)) := by
  simp [decodeWord, h]

end Sys2Proof

namespace Sys2Proof.Machine

/-! The blit in the words of the claims: covered cells and the screen before. -/

namespace State

variable (s : State) (x y : RegNum) (n : BitVec 4) {off : Nat}

/-- A cell is set after the blit if it was either clear and covered, or set and not covered. -/
theorem cell_blit (ho : off < 2048) :
    (s.blit x y n).1.cell off = true ↔ (¬s.pixel off = true ↔ SpriteCovers s x y n off) := by
  rw [← spriteLit_iff_covers]
  exact (drawRows_spec _ _ s.fb false).1 off ho

theorem cell_blit_of_covers (ho : off < 2048) (hc : SpriteCovers s x y n off) :
    (s.blit x y n).1.cell off = !s.pixel off :=
  Bool.eq_iff_iff.2 ((s.cell_blit x y n ho).trans (by simp [hc]))

theorem cell_blit_of_not_covers (ho : off < 2048) (hc : ¬SpriteCovers s x y n off) :
    (s.blit x y n).1.cell off = s.pixel off :=
  Bool.eq_iff_iff.2 ((s.cell_blit x y n ho).trans (by simp [hc]))

/-- The blit collides exactly if a covered cell was set before. -/
theorem blit_collides_iff :
    (s.blit x y n).2 = true ↔ ∃ off, off < 2048 ∧ SpriteCovers s x y n off ∧ s.pixel off = true := by
  simp only [← spriteLit_iff_covers]
  exact (drawRows_spec _ _ s.fb false).2.trans (or_iff_right Bool.false_ne_true)

end State

/-! The effect of a draw in range: VF, then the screen, then the advance. -/

/-- Everything DRW leaves alone when it completes: all of the state but VF, FB, DIRTY and PC. -/
def KeepsAllButFlagScreenAndPc (s t : State) : Prop :=
  KeepsRegs (· = 15) s t ∧ KeepsIndex s t ∧ KeepsMem s t ∧ KeepsStack s t ∧ KeepsTimers s t ∧ KeepsFaultRegs s t ∧
    KeepsInputs s t ∧ KeepsDraws s t ∧ KeepsSinks s t

theorem State.setFlag_setScreen_advance_frame (s : State) (f : Byte) (fb : Framebuffer) :
    KeepsAllButFlagScreenAndPc s ((s.setFlag f).setScreen fb).advance :=
  ⟨fun r hr => (s.reg_setReg 15 r f).trans (if_neg hr), rfl, fun _ => rfl, ⟨rfl, rfl⟩, ⟨rfl, rfl, rfl⟩,
    ⟨rfl, rfl, rfl, rfl, rfl⟩, ⟨rfl, rfl⟩, rfl, rfl⟩

theorem State.setFlag_setScreen_advance_flag (s : State) (f : Byte) (fb : Framebuffer) :
    ((s.setFlag f).setScreen fb).advance.reg 15 = f := by
  simp

/-- Settles O32: the range check decides between MEM_OOB and the effect, whose screen and flag are those of the blit. -/
theorem drawFlipsTheCoveredCells : Obligations.DrawFlipsTheCoveredCells := by
  refine ⟨encodes_of_family fun _ => decodeWord_of_familyD, fun x y n s hin => ?_,
    fun x y n s w hout hf => memOobAt_of_guardRange rfl hf hout⟩
  have cells : ∀ off, off < 2048 → (SpriteCovers s x y n off → (s.blit x y n).1.cell off = !s.pixel off) ∧
      (¬SpriteCovers s x y n off → (s.blit x y n).1.cell off = s.pixel off) := fun _ ho =>
    ⟨s.cell_blit_of_covers x y n ho, s.cell_blit_of_not_covers x y n ho⟩
  refine ⟨_, State.guardRange_of_inside _ hin, cells, fun hit => ?_, fun miss => ?_, rfl, rfl,
    s.setFlag_setScreen_advance_frame ..⟩
  · rw [State.setFlag_setScreen_advance_flag, (s.blit_collides_iff x y n).2 hit]
    rfl
  · have hfalse : (s.blit x y n).2 = false := Bool.eq_false_iff.2 (mt (s.blit_collides_iff x y n).1 miss)
    rw [State.setFlag_setScreen_advance_flag, hfalse]
    rfl

end Sys2Proof.Machine
end

section
/-! The timer and keypad family: the timer and key instructions, and the two that load or add to I (R200 to R208, R220,
R237). -/

namespace Sys2Proof

theorem decodeWord_of_familyA {w : Word} (h : familyField w = 0xA#4) : decodeWord w = .recognized (.ldI (nnnField w)) := by
  simp [decodeWord, h]

end Sys2Proof

namespace Sys2Proof.Machine

/-- A row of family E is settled by what the second level does with its low byte (R97). -/
theorem encodes_of_familyE {f : Word → Instr} {val : Word} (hval : familyField val = 0xE#4)
    (h : ∀ w, nnField w = nnField val → decodeFamilyE w = .recognized (f w)) : Encodes 0xF0FF#16 val f :=
  encodes_of_family_nn fun w hf hnn => (decodeWord_of_familyE (hf.trans hval)).trans (h w hnn)

/-- A row of family F is settled by what the second level does with its low byte (R98). -/
theorem encodes_of_familyF {f : Word → Instr} {val : Word} (hval : familyField val = 0xF#4)
    (h : ∀ w, nnField w = nnField val → decodeFamilyF w = .recognized (f w)) : Encodes 0xF0FF#16 val f :=
  encodes_of_family_nn fun w hf hnn => (decodeWord_of_familyF (hf.trans hval)).trans (h w hnn)

/-! The end of a cycle whose handler completed: the timer bookkeeping (R244, R245), then the trace (R127). -/

namespace State

section trace

variable (s : State) (p w : Word) (i : Instr)

@[simp] theorem traceStep_reg (r : RegNum) : (s.traceStep p w i).reg r = s.reg r := by rw [traceStep_eq]; rfl
@[simp] theorem traceStep_pc : (s.traceStep p w i).pc = s.pc := by rw [traceStep_eq]
@[simp] theorem traceStep_dt : (s.traceStep p w i).dt = s.dt := by rw [traceStep_eq]
@[simp] theorem traceStep_st : (s.traceStep p w i).st = s.st := by rw [traceStep_eq]
@[simp] theorem traceStep_tdiv : (s.traceStep p w i).tdiv = s.tdiv := by rw [traceStep_eq]
@[simp] theorem traceStep_keys : (s.traceStep p w i).keys = s.keys := by rw [traceStep_eq]
@[simp] theorem traceStep_halt : (s.traceStep p w i).halt = s.halt := by rw [traceStep_eq]
@[simp] theorem traceStep_readByte (a : Nat) : (s.traceStep p w i).readByte a = s.readByte a := by rw [traceStep_eq]; rfl

end trace

/-- Below the cadence the bookkeeping counts the cycle and leaves both timers. -/
theorem timerBookkeeping_of_below {s : State} (h : s.tdiv + 1 < s.config.cyclesPerTimerDecrement) :
    s.timerBookkeeping = s.setTdiv (s.tdiv + 1) :=
  if_neg (Nat.not_le.2 h)

/-- At the cadence the bookkeeping decrements both timers and starts the count again. -/
theorem timerBookkeeping_of_due {s : State} (h : s.config.cyclesPerTimerDecrement ≤ s.tdiv + 1) :
    s.timerBookkeeping = ((s.setTdiv 0).setDt (decremented s.dt)).updateSt (decremented s.st) :=
  if_pos h

end State

/-- The step of a ready state whose handler completes. -/
theorem step_of_completed {s u : State} {w : Word} {i : Instr} (hr : s.Ready) (hf : s.fetch = some w)
    (hd : decodeWord w = .recognized i) (he : exec i s = .next u) (hu : u.halt = false) :
    step s = .next (u.timerBookkeeping.traceStep s.pc w i) := by
  obtain ⟨hw, hh⟩ := hr
  rw [step_of_exec hw hh hf hd he, State.finishCycle_of_running _ _ _ hu]

/-- The timers after such a step, on each side of the cadence: the bookkeeping acts on what the handler left (R201, R202). -/
theorem step_timers_of_completed {s u : State} {w : Word} {i : Instr} (hr : s.Ready) (hf : s.fetch = some w)
    (hd : decodeWord w = .recognized i) (he : exec i s = .next u) (hu : u.halt = false) :
    ∃ t, step s = .next t ∧
      (u.tdiv + 1 < u.config.cyclesPerTimerDecrement → t.dt = u.dt ∧ t.st = u.st ∧ t.tdiv = u.tdiv + 1) ∧
      (u.config.cyclesPerTimerDecrement ≤ u.tdiv + 1 →
        t.dt.toNat = u.dt.toNat - 1 ∧ t.st.toNat = u.st.toNat - 1 ∧ t.tdiv = 0) := by
  refine ⟨_, step_of_completed hr hf hd he hu, fun below => ?_, fun due => ?_⟩
  · simp [State.timerBookkeeping_of_below below]
  · simp [State.timerBookkeeping_of_due due, decremented_toNat]

/-- Settles O34: V[X] is written before the bookkeeping, which writes no register. -/
theorem readDelayTimer : Obligations.ReadDelayTimer := by
  refine ⟨encodes_of_familyF (by decide) fun w hnn => by rw [decodeFamilyF, hnn]; rfl, fun x s => ?_,
    fun x s w hr hf hd => ?_⟩
  · exact ⟨_, rfl, s.setReg_advance_reg_self x s.dt, s.setReg_advance_frame x s.dt⟩
  · refine ⟨_, step_of_completed hr hf hd rfl hr.2, ?_⟩
    rw [State.traceStep_reg, State.timerBookkeeping_reg, State.setReg_advance_reg_self]

/-- Settles O35: the handler writes DT and PC only, and the bookkeeping of the cycle acts on the written DT. -/
theorem setDelayTimer : Obligations.SetDelayTimer := by
  refine ⟨encodes_of_familyF (by decide) fun w hnn => by rw [decodeFamilyF, hnn]; rfl, fun x s => ?_,
    fun x s w hr hf hd => ?_⟩
  · exact ⟨_, rfl, rfl, rfl, rfl, rfl, fun _ _ => rfl, rfl, fun _ => rfl, ⟨rfl, rfl⟩, ⟨fun _ => rfl, rfl⟩,
      ⟨rfl, rfl, rfl, rfl, rfl⟩, ⟨rfl, rfl⟩, rfl, rfl⟩
  · obtain ⟨t, ht, below, due⟩ := step_timers_of_completed hr hf hd rfl hr.2
    refine ⟨t, ht, fun h => ?_, fun h => ?_⟩
    · obtain ⟨hdt, -, htdiv⟩ := below h
      exact ⟨hdt, htdiv⟩
    · obtain ⟨hdt, -, htdiv⟩ := due h
      exact ⟨hdt, htdiv⟩

/-- Settles O36: the handler is one update of ST, whose sound edge is the claim's, and the bookkeeping of the cycle acts on
the written ST. -/
theorem setSoundTimer : Obligations.SetSoundTimer := by
  refine ⟨encodes_of_familyF (by decide) fun w hnn => by rw [decodeFamilyF, hnn]; rfl, fun x s => ?_,
    fun x s w hr hf hd => ?_⟩
  · have sunk : (s.updateSt (s.reg x)).advance.emitted =
        if s.st ≠ 0 ∧ s.reg x = 0 then .soundEdge :: s.emitted else s.emitted := s.updateSt_emitted (s.reg x)
    exact ⟨_, rfl, rfl, rfl, rfl, fun edge => sunk.trans (if_pos edge), fun still => sunk.trans (if_neg still), rfl,
      fun _ _ => rfl, rfl, fun _ => rfl, ⟨rfl, rfl⟩, ⟨fun _ => rfl, rfl⟩, ⟨rfl, rfl, rfl, rfl, rfl⟩, ⟨rfl, rfl⟩, rfl⟩
  · obtain ⟨t, ht, below, due⟩ := step_timers_of_completed hr hf hd rfl hr.2
    refine ⟨t, ht, fun h => ?_, fun h => ?_⟩
    · obtain ⟨-, hst⟩ := below h
      exact hst
    · obtain ⟨-, hst⟩ := due h
      exact hst

/-! The index instructions. -/

/-- The address of a glyph does not wrap: it is at most 255 x 5 (R204). -/
theorem glyphAddress_toNat (b : Byte) : (glyphAddress b).toNat = b.toNat * 5 := by
  have hb := b.isLt
  rw [glyphAddress, BitVec.toNat_ofNat]
  omega

/-- A write of I and an advance change no register and nothing outside I and PC. -/
theorem State.setIndex_advance_frame (s : State) (a : Word) :
    (s.setIndex a).advance.pc = s.pc + 2 ∧ KeepsRegs (fun _ => False) s (s.setIndex a).advance ∧
      KeepsOutside s (s.setIndex a).advance :=
  ⟨rfl, fun _ _ => rfl, keepsOutside_of_eq rfl⟩

/-- Settles O37: the sum and the flag are both computed from the old I and V[X], and VF is the only register written. -/
theorem addToIndex : Obligations.AddToIndex := by
  refine ⟨encodes_of_familyF (by decide) fun w hnn => by rw [decodeFamilyF, hnn]; rfl, fun x s =>
    ⟨_, rfl, ?_, (s.reg_setReg 15 15 _).trans (if_pos rfl), rfl,
      fun r hr => (s.reg_setReg 15 r _).trans (if_neg hr), keepsOutside_of_eq rfl⟩⟩
  calc (s.index + byteOperand (s.reg x)).toNat
    _ = (s.index.toNat + (byteOperand (s.reg x)).toNat) % 65536 := BitVec.toNat_add ..
    _ = (s.index.toNat + (s.reg x).toNat) % 65536 := by rw [byteOperand_toNat]

/-- Settles O38: both are a write of I, and neither value wraps at 16 bits. -/
theorem loadIndex : Obligations.LoadIndex := by
  refine ⟨encodes_of_familyF (by decide) fun w hnn => by rw [decodeFamilyF, hnn]; rfl,
    encodes_of_family fun _ => decodeWord_of_familyA, fun x s => ?_, fun nnn s => ?_⟩
  · exact ⟨_, rfl, glyphAddress_toNat (s.reg x), s.setIndex_advance_frame _⟩
  · exact ⟨_, rfl, addrOperand_toNat nnn, s.setIndex_advance_frame _⟩

/-! The keypad instructions. -/

/-- LD Vx,K answers the state itself or writes a register, so it enters no fault (R237). -/
theorem execLdVxK_keepsFaultRegs {x : RegNum} {s t : State} (h : execLdVxK x s = .next t) : KeepsFaultRegs s t := by
  obtain ⟨-, rfl⟩ | ⟨k, -, rfl⟩ := execLdVxK_eq_next.1 h <;> exact ⟨rfl, rfl, rfl, rfl, rfl⟩

/-- Settles O39: the index check decides between KEY_OOB and a write of PC; of the two instructions that never take KEY_OOB,
neither makes that check. -/
theorem skipsOnAKey : Obligations.SkipsOnAKey := by
  refine ⟨encodes_of_familyE (by decide) fun w hnn => by rw [decodeFamilyE, hnn]; rfl,
    encodes_of_familyE (by decide) fun w hnn => by rw [decodeFamilyE, hnn]; rfl, fun x s hin => ?_,
    fun x s w hout hf => ?_, fun x s t h => ?_⟩
  · have skips : ∀ c, s.guardKey x c = .next (s.skipIf c) := fun c => State.guardKey_eq_next.2 (.inr ⟨hin, rfl⟩)
    refine ⟨⟨_, skips _, fun down => ?_, fun up => ?_, s.setPc_frame _⟩,
      ⟨_, skips _, fun up => ?_, fun down => ?_, s.setPc_frame _⟩⟩
    · simp [down]
    · simp [up]
    · simp [up]
    · simp [down]
  · have faults : ∀ c, s.guardKey x c = .next (s.enterFault .keyOob (byteOperand (s.reg x))) := fun c =>
      State.guardKey_eq_next.2 (.inl ⟨hout, rfl⟩)
    have took := tookFault_enterFault .keyOob (byteOperand (s.reg x)) (show s.fetch.getD 0 = w by rw [hf]; rfl)
    exact ⟨⟨_, faults _, took⟩, ⟨_, faults _, took⟩⟩
  · obtain hk | hF := h
    · exact execLdVxK_keepsFaultRegs hk
    · cases hF
      exact ⟨rfl, rfl, rfl, rfl, rfl⟩

/-- KEY is 0 when each of its 16 levels is. -/
theorem State.keys_eq_zero {s : State} (h : ∀ j, j < 16 → s.keyDown j = false) : s.keys = 0 :=
  BitVec.eq_of_getLsbD_eq fun j hj => (h j hj).trans BitVec.getLsbD_zero.symm

/-- With no key down the handler of LD Vx,K changes nothing, PC included. -/
theorem execLdVxK_of_no_key (x : RegNum) {s : State} (h : s.keys = 0) : execLdVxK x s = .next s :=
  execLdVxK_eq_next.2 (.inl ⟨h, rfl⟩)

/-- A waiting state still waits after the bookkeeping and the trace: PC, memory, KEY and HALT are as they were (R208). -/
theorem State.Waiting.endOfCycle {s : State} (h : s.Waiting) (p w : Word) (i : Instr) :
    (s.timerBookkeeping.traceStep p w i).Waiting := by
  obtain ⟨hh, ⟨v, x, hf, hd⟩, hk⟩ := h
  have same : (s.timerBookkeeping.traceStep p w i).fetch = s.fetch := State.fetch_congr (by simp) (by simp)
  exact ⟨by simp [hh], ⟨v, x, same.trans hf, hd⟩, by simp [hk]⟩

/-- Settles O40: the scan finds the least key down, or none; then the handler answers the state itself, so the cycle is the
bookkeeping and the trace. -/
theorem waitForKey : Obligations.WaitForKey := by
  refine ⟨encodes_of_familyF (by decide) fun w hnn => by rw [decodeFamilyF, hnn]; rfl, fun x s k hk down least => ?_,
    fun x s up => execLdVxK_of_no_key x (State.keys_eq_zero up), fun s hw wait => ?_⟩
  · have first : s.firstKey = some k := (s.firstKey_eq_some k).2 ⟨hk, down, least⟩
    refine ⟨_, execLdVxK_eq_next.2 (.inr ⟨k, first, rfl⟩), ?_, s.setReg_advance_frame ..⟩
    rw [State.setReg_advance_reg_self, BitVec.toNat_ofNat]
    omega
  · have ⟨hh, ⟨w, x, hf, hd⟩, hkeys⟩ := wait
    have hstep : step s = .next (s.timerBookkeeping.traceStep s.pc w (.ldVxK x)) :=
      step_of_completed ⟨hw, hh⟩ hf hd (execLdVxK_of_no_key x hkeys) hh
    exact ⟨_, hstep, wait.endOfCycle .., by simp, fun r _ => by simp, fun a => by simp, by simp, by simp, by simp⟩

end Sys2Proof.Machine
end

section
/-! The memory and BCD family: the decimal digits, the register dump and the register load (R221 to R223, R63, R235). -/

namespace Sys2Proof.Machine

/-- The range check in the words of the claims: the last of the n + 1 bytes from I on lies above 4095 (R63). -/
theorem touchesOutside_succ_iff {s : State} {n : Nat} : TouchesOutside s (n + 1) ↔ 4095 < s.index.toNat + n :=
  and_iff_right n.succ_pos

/-- A guarded access whose last byte lies in MEM has its effect (R63). -/
theorem State.guardRange_succ_of_le {s : State} {n : Nat} (u : State) (h : s.index.toNat + n ≤ 4095) :
    s.guardRange (n + 1) u = .next u :=
  State.guardRange_of_inside u (mt touchesOutside_succ_iff.1 h.not_gt)

/-! The effect of a store through I: the bytes, then the advance. -/

namespace State

variable (s : State) (a : Nat) (bs : List Byte)

/-- The k-th byte stored reads back at its address, when the stored range lies in MEM. -/
theorem readByte_storeBytes_advance (h : a + bs.length ≤ memSize) {k : Nat} (hk : k < bs.length) :
    (s.storeBytes a bs).advance.readByte (a + k) = bs[k] := by
  have hin : a ≤ a + k ∧ a + k < a + bs.length := ⟨Nat.le_add_right a k, Nat.add_lt_add_left hk a⟩
  rw [advance_eq, setPc_readByte, s.readByte_storeBytes a bs h, dif_pos hin]
  simp

/-- A store and an advance write MEM and PC only. -/
theorem storeBytes_advance_eq :
    (s.storeBytes a bs).advance = { s with mem := (s.storeBytes a bs).mem, pc := s.pc + 2 } :=
  congrArg advance (s.storeBytes_eq a bs)

/-- They leave every byte outside the stored range, every register, I, and everything else but PC. -/
theorem storeBytes_advance_frame {n : Nat} (hn : bs.length = n) {t : State} (ht : t = (s.storeBytes a bs).advance) :
    KeepsMemOutside a n s t ∧ t.pc = s.pc + 2 ∧ KeepsRegs (fun _ => False) s t ∧ KeepsIndex s t ∧ KeepsStack s t ∧
      KeepsTimers s t ∧ KeepsScreen s t ∧ KeepsFaultRegs s t ∧ KeepsInputs s t ∧ KeepsDraws s t ∧ KeepsSinks s t := by
  subst hn
  refine ⟨fun b hb => ht ▸ s.readByte_storeBytes_outside a bs b hb, ?_⟩
  rw [ht, storeBytes_advance_eq]
  exact ⟨rfl, fun _ _ => rfl, rfl, ⟨rfl, rfl⟩, ⟨rfl, rfl, rfl⟩, ⟨fun _ => rfl, rfl⟩, ⟨rfl, rfl, rfl, rfl, rfl⟩,
    ⟨rfl, rfl⟩, rfl, rfl⟩

/-- The byte a dump stores for V[r] (R222). -/
theorem readByte_dump_advance {x r : RegNum} (hin : s.index.toNat + x.toNat ≤ 4095) (hr : r.toNat ≤ x.toNat) :
    (s.storeBytes s.index.toNat (s.regsUpTo x)).advance.readByte (s.index.toNat + r.toNat) = s.reg r := by
  have hlen : s.index.toNat + (s.regsUpTo x).length ≤ memSize := by rw [regsUpTo_length, memSize]; omega
  have hk : r.toNat < (s.regsUpTo x).length := by rw [regsUpTo_length]; omega
  rw [s.readByte_storeBytes_advance _ _ hlen hk, getElem_regsUpTo, BitVec.ofNat_toNat, BitVec.setWidth_eq]

/-- The registers after a load and an advance (R223). -/
theorem reg_loadRegs_advance (x r : RegNum) (a : Nat) :
    (s.loadRegs x a).advance.reg r = if r.toNat ≤ x.toNat then s.readByte (a + r.toNat) else s.reg r :=
  s.reg_loadRegs x r a

end State

/-- Settles O42: the dump stores X + 1 bytes, the r-th of which is V[r]; the range check decides between them and MEM_OOB. -/
theorem registerDump : Obligations.RegisterDump := by
  refine ⟨encodes_of_familyF (by decide) fun w hnn => by rw [decodeFamilyF, hnn]; rfl, fun x s hin => ?_,
    fun x s w hout hf => memOobAt_of_guardRange rfl hf (touchesOutside_succ_iff.2 hout)⟩
  exact ⟨_, State.guardRange_succ_of_le _ hin, fun r hr => s.readByte_dump_advance hin hr,
    s.storeBytes_advance_frame _ _ (s.regsUpTo_length x) rfl⟩

/-- Settles O43: V is the only state written, and the registers above X keep their values in it. -/
theorem registerLoad : Obligations.RegisterLoad := by
  refine ⟨encodes_of_familyF (by decide) fun w hnn => by rw [decodeFamilyF, hnn]; rfl, fun x s hin => ?_,
    fun x s w hout hf => memOobAt_of_guardRange rfl hf (touchesOutside_succ_iff.2 hout)⟩
  exact ⟨_, State.guardRange_succ_of_le _ hin, fun r hr => (s.reg_loadRegs_advance x r _).trans (if_pos hr), rfl,
    fun r hr => (s.reg_loadRegs_advance x r _).trans (if_neg hr), rfl, keepsOutside_of_eq rfl⟩

@[simp] theorem bcdDigits_length (b : Byte) : (bcdDigits b).length = 3 := rfl

/-- The three digits in order; each is at most 9, so none is cut to a byte. -/
theorem bcdDigits_toNat (b : Byte) :
    (bcdDigits b)[0].toNat = b.toNat / 100 ∧ (bcdDigits b)[1].toNat = b.toNat / 10 % 10 ∧
      (bcdDigits b)[2].toNat = b.toNat % 10 := by
  have hb := b.isLt
  simp only [bcdDigits, List.getElem_cons_zero, List.getElem_cons_succ, BitVec.toNat_ofNat]
  omega

/-- Settles O41: three bytes are stored, which are the digits; the range check decides between them and MEM_OOB. -/
theorem storeDecimalDigits : Obligations.StoreDecimalDigits := by
  refine ⟨encodes_of_familyF (by decide) fun w hnn => by rw [decodeFamilyF, hnn]; rfl, fun x s hin => ?_,
    fun x s w hout hf => memOobAt_of_guardRange rfl hf (touchesOutside_succ_iff.2 hout)⟩
  have hlen : s.index.toNat + (bcdDigits (s.reg x)).length ≤ memSize := Nat.succ_le_succ hin
  have stored {k : Nat} (hk : k < 3) := congrArg BitVec.toNat (s.readByte_storeBytes_advance _ _ hlen hk)
  obtain ⟨hundreds, tens, ones⟩ := bcdDigits_toNat (s.reg x)
  exact ⟨_, State.guardRange_succ_of_le _ hin, (stored (by decide)).trans hundreds, (stored (by decide)).trans tens,
    (stored (by decide)).trans ones, s.storeBytes_advance_frame _ _ (bcdDigits_length _) rfl⟩

end Sys2Proof.Machine
end

section
/-! The exceptions family: which cycles count for the timers (R244, R245), the sound edge (R246), DIRTY (R249), and the
cycles of a tick (R250, R251). -/

namespace Sys2Proof.Machine

/-! What every handler leaves for the end of its cycle. -/

/-- What no handler may do, fault entry included: write TDIV or the configuration (R34, R37), clear DIRTY (R249), or,
unless it is LD ST, deliver anything to a sink (R246). -/
structure HandlerKeeps (i : Instr) (s t : State) : Prop where
  tdiv : t.tdiv = s.tdiv
  config : t.config = s.config
  dirty : s.dirty = true → t.dirty = true
  sinks : (∀ x, i ≠ .ldStVx x) → KeepsSinks s t

theorem handlerKeeps_enterFault (i : Instr) (s : State) (c : Cause) (a : Word) : HandlerKeeps i s (s.enterFault c a) :=
  ⟨rfl, rfl, id, fun _ => rfl⟩

/-- A guarded data access enters MEM_OOB or has its effect (R235). -/
theorem HandlerKeeps.of_guardRange {i : Instr} {s t u : State} {len : Nat} (h : s.guardRange len u = .next t)
    (hu : HandlerKeeps i s u) : HandlerKeeps i s t := by
  obtain ⟨-, rfl⟩ | ⟨-, rfl⟩ := State.guardRange_eq_next.1 h
  · exact handlerKeeps_enterFault ..
  · exact hu

/-- A guarded key skip enters KEY_OOB or writes PC (R237). -/
theorem HandlerKeeps.of_guardKey {i : Instr} {s t : State} {x : RegNum} {skip : Bool} (h : s.guardKey x skip = .next t) :
    HandlerKeeps i s t := by
  obtain ⟨-, rfl⟩ | ⟨-, rfl⟩ := State.guardKey_eq_next.1 h
  · exact handlerKeeps_enterFault ..
  · exact ⟨rfl, rfl, id, fun _ => rfl⟩

theorem exec_handlerKeeps {i : Instr} {s t : State} (h : exec i s = .next t) : HandlerKeeps i s t := by
  cases i with
  | ldStVx x => cases h; exact ⟨rfl, rfl, id, fun hne => absurd rfl (hne x)⟩
  | cls => cases h; exact ⟨rfl, rfl, fun _ => rfl, fun _ => rfl⟩
  | drw => exact .of_guardRange h ⟨rfl, rfl, fun _ => rfl, fun _ => rfl⟩
  | ldBVx | ldMemVx =>
    exact .of_guardRange h ⟨by simp, by simp, fun hd => by simpa using hd, fun _ => by simp [KeepsSinks]⟩
  | ldVxMem => exact .of_guardRange h ⟨rfl, rfl, id, fun _ => rfl⟩
  | skp | sknp => exact .of_guardKey h
  | call nnn =>
    obtain ⟨-, rfl⟩ | ⟨-, -, rfl⟩ := execCall_eq_next.1 h
    · exact handlerKeeps_enterFault ..
    · exact ⟨rfl, rfl, id, fun _ => rfl⟩
  | ret =>
    obtain ⟨-, rfl⟩ | ⟨-, r, -, rfl⟩ := execRet_eq_next.1 h
    · exact handlerKeeps_enterFault ..
    · exact ⟨rfl, rfl, id, fun _ => rfl⟩
  | ldVxK x =>
    obtain ⟨-, rfl⟩ | ⟨k, -, rfl⟩ := execLdVxK_eq_next.1 h
    · exact ⟨rfl, rfl, id, fun _ => rfl⟩
    · exact ⟨rfl, rfl, id, fun _ => rfl⟩
  | _ => cases h; exact ⟨rfl, rfl, id, fun _ => rfl⟩

/-! The timer bookkeeping and the end of a cycle. -/

/-- A decrement ends at 0 from a non-zero value exactly when that value is 1 (R246). -/
theorem ne_zero_and_decremented_eq_zero_iff (b : Byte) : b ≠ 0 ∧ decremented b = 0 ↔ b = 1 := by
  simp only [ne_eq, ← BitVec.toNat_inj, decremented_toNat, BitVec.ofNat_eq_ofNat, BitVec.toNat_ofNat]
  omega

namespace State

section

variable (s : State) (p w : Word) (i : Instr)

theorem timerBookkeeping_tdiv :
    s.timerBookkeeping.tdiv = if s.config.cyclesPerTimerDecrement ≤ s.tdiv + 1 then 0 else s.tdiv + 1 := by
  rw [timerBookkeeping_eq]; split <;> rfl

theorem timerBookkeeping_emitted :
    s.timerBookkeeping.emitted =
      if s.config.cyclesPerTimerDecrement ≤ s.tdiv + 1 ∧ s.st = 1 then .soundEdge :: s.emitted else s.emitted := by
  by_cases due : s.config.cyclesPerTimerDecrement ≤ s.tdiv + 1
  · rw [timerBookkeeping_of_due due, updateSt_emitted]
    exact if_congr ((ne_zero_and_decremented_eq_zero_iff s.st).trans (and_iff_right due).symm) rfl rfl
  · rw [timerBookkeeping_of_below (Nat.not_le.1 due)]
    exact (if_neg fun h => due h.1).symm

@[simp] theorem traceStep_dirty : (s.traceStep p w i).dirty = s.dirty := by rw [traceStep_eq]

/-- A trace record is no sound edge (R127). -/
@[simp] theorem count_soundEdge_traceStep :
    (s.traceStep p w i).emitted.count .soundEdge = s.emitted.count .soundEdge := by
  unfold traceStep
  split
  · exact List.count_cons_of_ne (by simp)
  · rfl

@[simp] theorem stallCycle_halt : (s.stallCycle w).halt = s.halt := timerBookkeeping_halt _

@[simp] theorem stallCycle_dirty : (s.stallCycle w).dirty = s.dirty := timerBookkeeping_dirty _

@[simp] theorem finishCycle_halt : (s.finishCycle p w i).halt = s.halt := by
  unfold finishCycle; split <;> simp

@[simp] theorem finishCycle_dirty : (s.finishCycle p w i).dirty = s.dirty := by
  unfold finishCycle; split <;> simp

end

end State

/-! What one step does: with a fault, without one, and to DIRTY. -/

/-- A ready CORE that ends its cycle halted has entered a fault and done nothing else (R236). -/
theorem step_eq_enterFault_of_halt {s t : State} (hr : s.Ready) (h : step s = .next t) (ht : t.halt = true) :
    ∃ c a, c ≠ .none ∧ t = s.enterFault c a := by
  obtain ⟨-, hh⟩ := hr
  obtain ⟨-, ⟨hhalt, -⟩ | ⟨-, ⟨-, rfl⟩ | ⟨w, -, ⟨-, rfl⟩ | ⟨i, u, -, he, rfl⟩⟩⟩⟩ := step_cases h
  · simp [hh] at hhalt
  · exact ⟨_, _, by decide, rfl⟩
  · simp [hh] at ht
  · have hu : u.halt = true := (u.finishCycle_halt ..).symm.trans ht
    rw [State.finishCycle_of_halt _ _ _ hu]
    obtain hfault | ⟨hkept, -⟩ := exec_faultedOrMoved he
    · exact hfault
    · simp [hkept, hh] at hu

/-- A cycle that takes no fault, a stall included, counts for the cadence (R244). -/
theorem step_tdiv_of_running {s t : State} (h : step s = .next t) (hs : s.halt = false) (ht : t.halt = false) :
    t.tdiv = if s.config.cyclesPerTimerDecrement ≤ s.tdiv + 1 then 0 else s.tdiv + 1 := by
  obtain ⟨-, ⟨hhalt, -⟩ | ⟨-, ⟨-, rfl⟩ | ⟨w, -, ⟨-, rfl⟩ | ⟨i, u, -, he, rfl⟩⟩⟩⟩ := step_cases h
  · simp [hs] at hhalt
  · simp at ht
  · exact State.timerBookkeeping_tdiv (s.emit (.diagnostic w s.pc))
  · have hu : u.halt = false := (u.finishCycle_halt ..).symm.trans ht
    have kept := exec_handlerKeeps he
    rw [State.finishCycle_of_running _ _ _ hu, State.traceStep_tdiv, State.timerBookkeeping_tdiv, kept.tdiv, kept.config]

/-- No cycle clears DIRTY (R249). -/
theorem step_keeps_dirty {s t : State} (h : step s = .next t) (hd : s.dirty = true) : t.dirty = true := by
  obtain ⟨-, ⟨-, rfl⟩ | ⟨-, ⟨-, rfl⟩ | ⟨w, -, ⟨-, rfl⟩ | ⟨i, u, -, he, rfl⟩⟩⟩⟩ := step_cases h
  · exact hd
  · exact hd
  · exact (s.stallCycle_dirty w).trans hd
  · exact (u.finishCycle_dirty ..).trans ((exec_handlerKeeps he).dirty hd)

/-- Settles O9: a cycle without a fault ends in the bookkeeping, a faulting one is fault entry alone, and the bookkeeping
has one equation on each side of the cadence. -/
theorem timerBookkeepingCountsDown : Obligations.TimerBookkeepingCountsDown := by
  refine ⟨fun s t hr h ht => step_tdiv_of_running h hr.2 ht, fun s t hr h ht => ?_,
    fun s => ⟨fun below => ?_, fun due => ?_, ?_⟩⟩
  · obtain ⟨c, a, -, rfl⟩ := step_eq_enterFault_of_halt hr h ht
    exact ⟨rfl, rfl, rfl⟩
  · rw [State.timerBookkeeping_of_below below]
    exact ⟨rfl, rfl, rfl, rfl⟩
  · have sunk := s.timerBookkeeping_emitted
    simp only [due, true_and] at sunk
    refine ⟨?_, ?_, ?_, sunk⟩ <;> simp [State.timerBookkeeping_of_due due, decremented_toNat]
  · simp [KeepsRegs, KeepsIndex, KeepsMem, KeepsStack, KeepsScreen, KeepsFaultRegs, KeepsInputs, KeepsDraws]

/-- The sound edges of a whole cycle of LD ST (R246): one of the write or one of the decrement, never both, since the
write's edge leaves ST = 0 and the decrement's needs ST = 1. -/
theorem count_soundEdge_ldSt_cycle (s : State) (x : RegNum) :
    (s.updateSt (s.reg x)).advance.timerBookkeeping.emitted.count .soundEdge = s.emitted.count .soundEdge +
      if (s.st ≠ 0 ∧ s.reg x = 0) ∨ (s.reg x = 1 ∧ s.config.cyclesPerTimerDecrement ≤ s.tdiv + 1) then 1 else 0 := by
  have written : (s.updateSt (s.reg x)).advance.timerBookkeeping.emitted =
      if s.config.cyclesPerTimerDecrement ≤ s.tdiv + 1 ∧ s.reg x = 1 then .soundEdge :: (s.updateSt (s.reg x)).emitted
      else (s.updateSt (s.reg x)).emitted :=
    State.timerBookkeeping_emitted _
  rw [written, State.updateSt_emitted]
  by_cases edge : s.st ≠ 0 ∧ s.reg x = 0
  · have hne : s.reg x ≠ 1 := by rw [edge.2]; decide
    rw [if_neg fun h => hne h.2, if_pos edge, if_pos (.inl edge), List.count_cons_self]
  · rw [if_neg edge]
    by_cases last : s.reg x = 1 ∧ s.config.cyclesPerTimerDecrement ≤ s.tdiv + 1
    · rw [if_pos last.symm, if_pos (.inr last), List.count_cons_self]
    · rw [if_neg fun h => last h.symm, if_neg (not_or.2 ⟨edge, last⟩), Nat.add_zero]

/-- Settles O10: LD ST is one update of ST, no other handler and no Reset writes the sinks, and the bookkeeping of an LD ST
cycle acts on the written ST. -/
theorem soundEdgesOfTheCore : Obligations.SoundEdgesOfTheCore := by
  refine ⟨fun x s => ⟨_, rfl, s.updateSt_emitted (s.reg x)⟩, State.timerBookkeeping_emitted,
    fun i s t hne h => (exec_handlerKeeps h).sinks hne, State.hostReset_emitted, fun x s w hr hf hd => ?_⟩
  refine ⟨_, step_of_completed hr hf hd rfl hr.2, ?_⟩
  rw [State.count_soundEdge_traceStep, count_soundEdge_ldSt_cycle]

/-- Settles O53: CLS and DRW in range write DIRTY, `step_keeps_dirty` covers every cycle, and the host's two writes are the
model's definitions. -/
theorem dirtyIsClearedByTheHostOnly : Obligations.DirtyIsClearedByTheHostOnly := by
  refine ⟨fun s t h => ?_, fun x y n s t h hin => ?_, fun s t h hd => step_keeps_dirty h hd, fun h => rfl,
    State.hostReset_dirty⟩
  · cases h
    rfl
  · cases (State.guardRange_of_inside _ hin).symm.trans h
    rfl

/-! The cycles of a tick (R250, R251). -/

/-- With KEY held, the first cycle is the plain step. -/
theorem runCycles_succ_nil {s t : State} (n : Nat) (h : step s = .next t) : runCycles (n + 1) [] s = runCycles n [] t := by
  simp only [runCycles, h]

/-- With KEY supplied, the first cycle is the step from the supplied vector. -/
theorem runCycles_succ_cons {s t : State} {k : BitVec 16} (n : Nat) (ks : List (BitVec 16))
    (h : step (s.setKeys k) = .next t) : runCycles (n + 1) (k :: ks) s = runCycles n ks t := by
  simp only [runCycles, h]

/-- Cycles with KEY held are the run of the core. -/
theorem runCycles_nil_eq_run (n : Nat) (s : State) : runCycles n [] s = Sys2Proof.core.run n s := by
  induction n generalizing s with
  | zero => rfl
  | succ n ih =>
    cases h : step s with
    | next t => rw [runCycles_succ_nil n h, ih, core_run_succ n h]
    | fault r | refused r =>
      have hcore : Sys2Proof.core.step s = _ := h
      simp only [runCycles, h, Host.Core.run, hcore]
      rfl

/-- Cycles on a halted CORE are no-ops (R121). -/
theorem runCycles_nil_of_halt {s : State} (n : Nat) (hw : s.config.wf = true) (hh : s.halt = true) :
    runCycles n [] s = .next s := by
  induction n with
  | zero => rfl
  | succ n ih => rw [runCycles_succ_nil n (step_of_halt hw hh), ih]

/-- Cycles that answer began with one that did. -/
theorem step_of_runCycles_succ_cons {s t : State} {k : BitVec 16} {n : Nat} {ks : List (BitVec 16)}
    (h : runCycles (n + 1) (k :: ks) s = .next t) : ∃ u, step (s.setKeys k) = .next u ∧ runCycles n ks u = .next t := by
  cases hs : step (s.setKeys k) with
  | next u => exact ⟨u, rfl, runCycles_succ_cons n ks hs ▸ h⟩
  | fault r | refused r => simp [runCycles, hs] at h

/-- A run of the host whose first move answers goes on from that move's session. -/
theorem hostRun_cons {op : HostOp} {ops : List HostOp} {h h' g : Session} {r : Reply} {rs : List Reply}
    (ho : hostStep op h = .next (h', r)) (hrun : hostRun ops h' = .next (g, rs)) :
    hostRun (op :: ops) h = .next (g, r :: rs) := by
  simp only [hostRun, ho, hrun]

/-- The Tick Driver's next cycle after a step that answers: the CORE that step leaves, and one cycle fewer due (R250). -/
theorem hostStep_cycle_of_step {h : Session} {n : Nat} {u : State} (hl : h.cyclesLeft = n + 1)
    (hs : step h.state = .next u) :
    ∃ h' r, hostStep .cycle h = .next (h', r) ∧ h'.state = u ∧ h'.cyclesLeft = n := by
  obtain ⟨e, hc⟩ := stateOf_eq_next.1 hs
  exact ⟨_, _, Session.cycle_eq_next.2 ⟨by simp [hl], u, e, hc, rfl, rfl⟩, rfl, by simp [hl]⟩

/-- The host's moves of the cycles due, KEY before each, give what `runCycles` gives and leave no cycle due. -/
theorem hostRun_keyedCycles (keys : List (BitVec 16)) {h : Session} {t : State} (hl : h.cyclesLeft = keys.length)
    (hrun : runCycles keys.length keys h.state = .next t) :
    ∃ h' rs, hostRun (keys.flatMap fun k => [.setKeys k, .cycle]) h = .next (h', rs) ∧ h'.state = t ∧
      h'.cyclesLeft = 0 := by
  induction keys generalizing h with
  | nil =>
    cases hrun
    exact ⟨h, [], rfl, rfl, hl⟩
  | cons k ks ih =>
    obtain ⟨u, hs, hrest⟩ := step_of_runCycles_succ_cons hrun
    obtain ⟨g, r, hcycle, rfl, hleft⟩ := hostStep_cycle_of_step (h := h.setState (h.state.setKeys k)) hl hs
    obtain ⟨h', rs, htail, hstate, hnone⟩ := ih hleft hrest
    exact ⟨h', _, hostRun_cons rfl (hostRun_cons hcycle htail), hstate, hnone⟩

/-- Settles O52: a tick is `runCycles`, with KEY held the core's own run; between ticks, Tick makes as many cycles due as
KEY vectors are given, and `hostRun_keyedCycles` runs them. -/
theorem tickRunsItsCycles : Obligations.TickRunsItsCycles := by
  refine ⟨fun s => runCycles_nil_eq_run _ s, fun keys s h0 => ?_, fun n s hw hh => runCycles_nil_of_halt n hw hh,
    fun n k ks s t h => runCycles_succ_cons n ks h, fun h keys t hl hlen htick => ?_⟩
  · rw [tick, h0, runCycles]
  · obtain ⟨g, hbegin, hdue, hg⟩ :
        ∃ g, hostStep .tick h = .next (g, .done) ∧ g.cyclesLeft = keys.length ∧ g.state = h.state :=
      ⟨_, Session.beginTick_eq_next.2 ⟨hl, rfl, rfl⟩, hlen.symm, rfl⟩
    rw [tick, ← hlen, ← hg] at htick
    obtain ⟨h', rs, hrun, hstate, hnone⟩ := hostRun_keyedCycles keys hdue htick
    exact ⟨h', _, hostRun_cons hbegin hrun, hstate, hnone⟩

end Sys2Proof.Machine
end

section
/-! The encoding of instructions: decoding gives an encoded instruction back, and the opcode map's masks select what the
decoder answers (R91 to R104). -/

namespace Sys2Proof

theorem decodeWord_of_familyC {w : Word} (h : familyField w = 0xC#4) :
    decodeWord w = .recognized (.rnd (xField w) (nnField w)) := by
  simp [decodeWord, h]

/-- The decoder inverts the encoder: the leading nibble of the word routes it to its family, and the fields are the
operands (R92, R94). -/
theorem decodeWord_encode (i : Instr) : decodeWord (encode i) = .recognized i := by
  cases i with
  | cls | ret => decide
  | jp | call | ldI | jpV0 | seByte | sneByte | ldByte | addByte | rnd | seReg | sneReg | drw => simp [encode, decodeWord]
  | ldReg | orReg | andReg | xorReg | addReg | sub | shr | subn | shl =>
    rw [encode, decodeWord_of_family8 (familyField_nibbles ..)]
    simp [decodeFamily8]
  | skp | sknp =>
    rw [encode, decodeWord_of_familyE (familyField_wordXnn ..)]
    simp [decodeFamilyE]
  | ldVxDt | ldVxK | ldDtVx | ldStVx | addIVx | ldFVx | ldBVx | ldMemVx | ldVxMem =>
    rw [encode, decodeWord_of_familyF (familyField_wordXnn ..)]
    simp [decodeFamilyF]

section recognized

variable {w : Word} {i : Instr} (h : decodeWord w = .recognized i)
include h

/-- The bytes of a recognized word decode to its instruction, whatever bytes follow (R61, R90). -/
theorem decodeBytes_bytesOfWord (rest : List Byte) : decodeBytes (bytesOfWord w ++ rest) = .ok (i, rest) := by
  simp [decodeBytes, bytesOfWord, wordOfBytes_bytesOfWord, h]

/-- So does the number of a recognized word, taken as 16 bits. -/
theorem decodeTableWord_toNat : decodeTableWord 16 w.toNat = some i := by
  have hw : BitVec.ofNat 16 (w.toNat % 2 ^ 16) = w := by rw [Nat.mod_eq_of_lt w.isLt, BitVec.ofNat_toNat, BitVec.setWidth_eq]
  have hb : decodeBytes (bytesOfWord w) = .ok (i, []) := by simpa using decodeBytes_bytesOfWord h []
  rw [decodeTableWord, hw, hb]

end recognized

/-- Settles O1: the word, its bytes and its number all decode through `decodeWord_encode`. -/
theorem decodeEncodeRoundTrip : Obligations.DecodeEncodeRoundTrip := by
  intro i rest
  have h := decodeWord_encode i
  exact ⟨h, decodeBytes_bytesOfWord h rest, decodeTableWord_toNat h⟩

/-! The opcode map (R103). -/

/-- The word `w` matches the row of `i`: `(w AND mask) = match` (R103). -/
def InRow (w : Word) (i : Instr) : Prop := w &&& (opcodeRow i).1 = (opcodeRow i).2

/-- A word that matches a row of the opcode map decodes to an instruction of that row: the mask fixes the family and what
its second level looks at. -/
theorem decodeWord_of_inRow {w : Word} {j : Instr} (h : InRow w j) :
    ∃ i, decodeWord w = .recognized i ∧ opcodeRow i = opcodeRow j := by
  cases j with dsimp only [InRow, opcodeRow] at h
  | cls => exact ⟨_, Machine.encodes_of_word (by decide) w h, rfl⟩
  | ret => exact ⟨_, Machine.encodes_of_word (by decide) w h, rfl⟩
  | jp => exact ⟨_, decodeWord_of_family1 (familyField_of_mask h (by decide)), rfl⟩
  | call => exact ⟨_, decodeWord_of_family2 (familyField_of_mask h (by decide)), rfl⟩
  | seByte => exact ⟨_, decodeWord_of_family3 (familyField_of_mask h (by decide)), rfl⟩
  | sneByte => exact ⟨_, decodeWord_of_family4 (familyField_of_mask h (by decide)), rfl⟩
  | seReg => exact ⟨_, decodeWord_of_family5 (familyField_of_mask h (by decide)), rfl⟩
  | ldByte => exact ⟨_, decodeWord_of_family6 (familyField_of_mask h (by decide)), rfl⟩
  | addByte => exact ⟨_, decodeWord_of_family7 (familyField_of_mask h (by decide)), rfl⟩
  | sneReg => exact ⟨_, decodeWord_of_family9 (familyField_of_mask h (by decide)), rfl⟩
  | ldI => exact ⟨_, decodeWord_of_familyA (familyField_of_mask h (by decide)), rfl⟩
  | jpV0 => exact ⟨_, decodeWord_of_familyB (familyField_of_mask h (by decide)), rfl⟩
  | rnd => exact ⟨_, decodeWord_of_familyC (familyField_of_mask h (by decide)), rfl⟩
  | drw => exact ⟨_, decodeWord_of_familyD (familyField_of_mask h (by decide)), rfl⟩
  | ldReg | orReg | andReg | xorReg | addReg | sub | shr | subn | shl =>
    rw [decodeWord_of_family8 (familyField_of_mask h (by decide)), decodeFamily8, nField_of_mask h (by decide)]
    exact ⟨_, rfl, rfl⟩
  | skp | sknp =>
    rw [decodeWord_of_familyE (familyField_of_mask h (by decide)), decodeFamilyE, nnField_of_mask h (by decide)]
    exact ⟨_, rfl, rfl⟩
  | ldVxDt | ldVxK | ldDtVx | ldStVx | addIVx | ldFVx | ldBVx | ldMemVx | ldVxMem =>
    rw [decodeWord_of_familyF (familyField_of_mask h (by decide)), decodeFamilyF, nnField_of_mask h (by decide)]
    exact ⟨_, rfl, rfl⟩

section rows

variable {w : Word} {i j : Instr} {f : BitVec 4}

/-- A family with no second level is one row, whose mask keeps the family (R103). -/
theorem inRow_of_family (hf : familyField w = f) (hd : decodeWord w = .recognized j)
    (hrow : opcodeRow j = (0xF000#16, nibbles f 0 0 0)) (h : decodeWord w = .recognized i) : InRow w i := by
  cases hd.symm.trans h
  rw [InRow, hrow, and_F000, hf]

theorem inRow_of_family0 (h : decodeFamily0 w = .recognized i) : InRow w i := by
  unfold decodeFamily0 at h
  split_ifs at h with hw hw <;> cases h <;> subst hw <;> rfl

/-- The second level of family 8 reads what the masks of its rows keep beside the family (R96). -/
theorem inRow_of_family8 (hf : familyField w = 0x8#4) (h : decodeFamily8 w = .recognized i) : InRow w i := by
  unfold decodeFamily8 at h
  split_ifs at h with hn hn hn hn hn hn hn hn hn <;> cases h <;> rw [InRow, opcodeRow, and_F00F, hf, hn] <;> rfl

/-- The second level of family E likewise (R97). -/
theorem inRow_of_familyE (hf : familyField w = 0xE#4) (h : decodeFamilyE w = .recognized i) : InRow w i := by
  unfold decodeFamilyE at h
  split_ifs at h with hn hn <;> cases h <;> rw [InRow, opcodeRow, and_F0FF, hf, hn] <;> rfl

/-- The second level of family F likewise (R98). -/
theorem inRow_of_familyF (hf : familyField w = 0xF#4) (h : decodeFamilyF w = .recognized i) : InRow w i := by
  unfold decodeFamilyF at h
  split_ifs at h with hn hn hn hn hn hn hn hn hn <;> cases h <;> rw [InRow, opcodeRow, and_F0FF, hf, hn] <;> rfl

/-- What the decoder saw of a word it recognized is what the mask of the instruction's row keeps. -/
theorem inRow_of_decodeWord (h : decodeWord w = .recognized i) : InRow w i := by
  have families : ∀ f : BitVec 4, f = 0 ∨ f = 1 ∨ f = 2 ∨ f = 3 ∨ f = 4 ∨ f = 5 ∨ f = 6 ∨ f = 7 ∨ f = 8 ∨ f = 9 ∨
      f = 0xA ∨ f = 0xB ∨ f = 0xC ∨ f = 0xD ∨ f = 0xE ∨ f = 0xF := by decide
  obtain hf | hf | hf | hf | hf | hf | hf | hf | hf | hf | hf | hf | hf | hf | hf | hf := families (familyField w)
  · exact inRow_of_family0 ((decodeWord_of_family0 hf).symm.trans h)
  · exact inRow_of_family hf (decodeWord_of_family1 hf) rfl h
  · exact inRow_of_family hf (decodeWord_of_family2 hf) rfl h
  · exact inRow_of_family hf (decodeWord_of_family3 hf) rfl h
  · exact inRow_of_family hf (decodeWord_of_family4 hf) rfl h
  · exact inRow_of_family hf (decodeWord_of_family5 hf) rfl h
  · exact inRow_of_family hf (decodeWord_of_family6 hf) rfl h
  · exact inRow_of_family hf (decodeWord_of_family7 hf) rfl h
  · exact inRow_of_family8 hf ((decodeWord_of_family8 hf).symm.trans h)
  · exact inRow_of_family hf (decodeWord_of_family9 hf) rfl h
  · exact inRow_of_family hf (decodeWord_of_familyA hf) rfl h
  · exact inRow_of_family hf (decodeWord_of_familyB hf) rfl h
  · exact inRow_of_family hf (decodeWord_of_familyC hf) rfl h
  · exact inRow_of_family hf (decodeWord_of_familyD hf) rfl h
  · exact inRow_of_familyE hf ((decodeWord_of_familyE hf).symm.trans h)
  · exact inRow_of_familyF hf ((decodeWord_of_familyF hf).symm.trans h)

end rows

/-- Settles O2: a row's words decode into the row and a decoded word lies in its row, so a word in no row is
unrecognized. -/
theorem opcodeMapSelectsTheInstruction : Obligations.OpcodeMapSelectsTheInstruction := by
  refine ⟨fun w j h => decodeWord_of_inRow h, fun w i h => inRow_of_decodeWord h, fun w none => ?_⟩
  cases h : decodeWord w with
  | recognized i => exact absurd (inRow_of_decodeWord h) (none i)
  | unrecognized => rfl

/-- Settles O4: the decoder computes. -/
theorem wordsOfTheOpcodeMapDecode : Obligations.WordsOfTheOpcodeMapDecode := by
  unfold Obligations.WordsOfTheOpcodeMapDecode
  decide

end Sys2Proof
end

section
/-! What a handler may write, said once for every instruction; the invariant of the machine, kept by every step (R24, R29,
R60, R236); and that with it every cycle answers. -/

namespace Sys2Proof.Machine

/-! What every handler leaves unchanged. -/

/-- What `i` may write, fault entry included: the stack only CALL and RET (R29), the screen only CLS and DRW (R31, R33), I
only LD I, ADD I and LD F (R25), DT and ST only LD DT and LD ST (R26, R27), MEM only the two stores (R28), the draws only
RND (R41), KEY none (R32), and the fault registers none that leaves HALT = 0 (R36). -/
structure WritesOnlyItsOwn (i : Instr) (s t : State) : Prop where
  stack : (∀ nnn, i ≠ .call nnn) → i ≠ .ret → KeepsStack s t
  screen : i ≠ .cls → (∀ x y n, i ≠ .drw x y n) → KeepsScreen s t
  index : (∀ nnn, i ≠ .ldI nnn) → (∀ x, i ≠ .addIVx x ∧ i ≠ .ldFVx x) → KeepsIndex s t
  dt : (∀ x, i ≠ .ldDtVx x) → t.dt = s.dt
  st : (∀ x, i ≠ .ldStVx x) → t.st = s.st
  mem : (∀ x, i ≠ .ldBVx x ∧ i ≠ .ldMemVx x) → t.mem = s.mem
  draws : (∀ x nn, i ≠ .rnd x nn) → KeepsDraws s t
  keys : t.keys = s.keys
  faultRegs : t.halt = false → KeepsFaultRegs s t

/-- An instruction that writes V and PC only. -/
theorem WritesOnlyItsOwn.of_eq {i : Instr} {s t : State} (h : t = { s with v := t.v, pc := t.pc }) :
    WritesOnlyItsOwn i s t := by
  rw [h]
  exact ⟨fun _ _ => ⟨rfl, rfl⟩, fun _ _ => ⟨fun _ => rfl, rfl⟩, fun _ _ => rfl, fun _ => rfl, fun _ => rfl, fun _ => rfl,
    fun _ => rfl, rfl, fun _ => ⟨rfl, rfl, rfl, rfl, rfl⟩⟩

theorem writesOnlyItsOwn_enterFault (i : Instr) (s : State) (c : Cause) (a : Word) :
    WritesOnlyItsOwn i s (s.enterFault c a) :=
  ⟨fun _ _ => ⟨rfl, rfl⟩, fun _ _ => ⟨fun _ => rfl, rfl⟩, fun _ _ => rfl, fun _ => rfl, fun _ => rfl, fun _ => rfl,
    fun _ => rfl, rfl, fun h => by simp at h⟩

/-- A guarded data access enters MEM_OOB or has its effect (R235). -/
theorem WritesOnlyItsOwn.of_guardRange {i : Instr} {s t u : State} {len : Nat} (h : s.guardRange len u = .next t)
    (hu : WritesOnlyItsOwn i s u) : WritesOnlyItsOwn i s t := by
  obtain ⟨-, rfl⟩ | ⟨-, rfl⟩ := State.guardRange_eq_next.1 h
  · exact writesOnlyItsOwn_enterFault ..
  · exact hu

/-- The effect of a store writes MEM and PC only. -/
theorem writesOnlyItsOwn_storeBytes {i : Instr} {s : State} {a : Nat} {bs : List Byte}
    (hi : ¬∀ x, i ≠ .ldBVx x ∧ i ≠ .ldMemVx x) : WritesOnlyItsOwn i s (s.storeBytes a bs).advance := by
  rw [State.storeBytes_advance_eq]
  exact ⟨fun _ _ => ⟨rfl, rfl⟩, fun _ _ => ⟨fun _ => rfl, rfl⟩, fun _ _ => rfl, fun _ => rfl, fun _ => rfl,
    fun h => absurd h hi, fun _ => rfl, rfl, fun _ => ⟨rfl, rfl, rfl, rfl, rfl⟩⟩

theorem exec_writesOnlyItsOwn {i : Instr} {s t : State} (h : exec i s = .next t) : WritesOnlyItsOwn i s t := by
  cases i with
  | call =>
    obtain ⟨-, rfl⟩ | ⟨-, -, rfl⟩ := execCall_eq_next.1 h
    · exact writesOnlyItsOwn_enterFault ..
    · constructor <;> simp [KeepsScreen, KeepsIndex, KeepsDraws, KeepsFaultRegs]
  | ret =>
    obtain ⟨-, rfl⟩ | ⟨-, r, -, rfl⟩ := execRet_eq_next.1 h
    · exact writesOnlyItsOwn_enterFault ..
    · constructor <;> simp [KeepsScreen, KeepsIndex, KeepsDraws, KeepsFaultRegs]
  | drw =>
    refine .of_guardRange h ?_
    constructor <;> simp [KeepsStack, KeepsIndex, KeepsDraws, KeepsFaultRegs]
  | ldBVx x => exact .of_guardRange h (writesOnlyItsOwn_storeBytes fun hi => (hi x).1 rfl)
  | ldMemVx x => exact .of_guardRange h (writesOnlyItsOwn_storeBytes fun hi => (hi x).2 rfl)
  | ldVxMem => exact .of_guardRange h (.of_eq rfl)
  | skp | sknp =>
    obtain ⟨-, rfl⟩ | ⟨-, rfl⟩ := State.guardKey_eq_next.1 h
    · exact writesOnlyItsOwn_enterFault ..
    · exact .of_eq rfl
  | ldVxK =>
    obtain ⟨-, rfl⟩ | ⟨k, -, rfl⟩ := execLdVxK_eq_next.1 h
    · exact .of_eq rfl
    · exact .of_eq rfl
  | cls | ldI | addIVx | ldFVx | ldDtVx | ldStVx | rnd =>
    cases h
    constructor <;> simp [KeepsStack, KeepsScreen, KeepsIndex, KeepsDraws, KeepsFaultRegs]
  | _ => cases h; exact .of_eq rfl

/-- Settles O47: what each handler writes is `exec_writesOnlyItsOwn`, and TDIV and the configuration `exec_handlerKeeps`. -/
theorem writersOfEachPieceOfState : Obligations.WritersOfEachPieceOfState := by
  intro i s t h
  have own := exec_writesOnlyItsOwn h
  have kept := exec_handlerKeeps h
  exact ⟨own.stack, own.screen, own.index, own.dt, own.st, kept.tdiv, own.keys, kept.config⟩

/-! The invariant, clause by clause: what a handler leaves in MEM, on the stack and in PC. -/

/-- Every handler keeps the canonical form of MEM (R60). -/
theorem exec_keeps_mem_wf {i : Instr} {s t : State} (hm : s.mem.wf s.config.glyphRom = true)
    (h : exec i s = .next t) : t.mem.wf s.config.glyphRom = true := by
  cases i with
  | ldBVx | ldMemVx =>
    obtain ⟨-, rfl⟩ | ⟨-, rfl⟩ := State.guardRange_eq_next.1 h
    · exact hm
    · exact s.storeBytes_wf _ _ hm
  | _ => rw [(exec_writesOnlyItsOwn h).mem (by simp)]; exact hm

/-- The clauses of the invariant about the call stack (R29, R141). -/
structure State.StackInv (s : State) : Prop where
  stackLength : s.stack.length = s.config.stackDepth
  spBound : s.sp ≤ s.config.stackDepth
  entries : ∀ k r, k < s.sp → s.stack[k]? = some r → r.toNat ≤ 0x0FFE

/-- The stack's clauses speak of the stack and STACK_DEPTH only. -/
theorem State.StackInv.congr {s t : State} (hs : s.StackInv) (h : KeepsStack s t) (hc : t.config = s.config) :
    t.StackInv := by
  obtain ⟨hsp, hst⟩ := h
  obtain ⟨len, bound, entries⟩ := hs
  exact ⟨by rw [hst, hc, len], by rw [hsp, hc]; exact bound, fun k r hk hr => entries k r (hsp ▸ hk) (hst ▸ hr)⟩

/-- Below a full stack a push of a fetched CALL's address keeps them: entry SP is new, the others are as they were. -/
theorem State.StackInv.push {s : State} (hs : s.StackInv) (hsp : s.sp ≠ s.config.stackDepth) {a : Word}
    (ha : a.toNat ≤ 0x0FFE) : (s.push a).StackInv := by
  obtain ⟨len, bound, entries⟩ := hs
  refine ⟨by simp [len], Nat.lt_of_le_of_ne bound hsp, fun k r hk hr => ?_⟩
  rw [push_stack, List.getElem?_set] at hr
  split at hr
  next heq => split at hr <;> cases hr; exact ha
  next hne => exact entries k r (by rw [push_sp] at hk; omega) hr

/-- Every handler of a fetched instruction keeps the stack's clauses. -/
theorem exec_keeps_stackInv {i : Instr} {s t : State} (hs : s.StackInv) (hp : s.pc.toNat ≤ 0x0FFE)
    (h : exec i s = .next t) : t.StackInv := by
  have hc : t.config = s.config := (exec_handlerKeeps h).config
  cases i with
  | call nnn =>
    obtain ⟨-, rfl⟩ | ⟨hsp, -, rfl⟩ := execCall_eq_next.1 h
    · exact hs.congr ⟨rfl, rfl⟩ rfl
    · exact (hs.push hsp hp).congr ⟨rfl, rfl⟩ rfl
  | ret =>
    obtain ⟨-, rfl⟩ | ⟨-, r, -, rfl⟩ := execRet_eq_next.1 h
    · exact hs.congr ⟨rfl, rfl⟩ rfl
    · obtain ⟨len, bound, entries⟩ := hs
      exact ⟨len, (Nat.sub_le ..).trans bound, fun k r hk => entries k r (Nat.lt_of_lt_of_le hk (Nat.sub_le ..))⟩
  | _ => exact hs.congr ((exec_writesOnlyItsOwn h).stack (by simp) (by simp)) hc

/-- A handler of a fetched instruction that completes leaves PC at most 0xFF + 0xFFF, the greatest target of JP V0,addr
(R24, R148). -/
theorem exec_pc_le {i : Instr} {s t : State} (hs : s.StackInv) (hp : s.pc.toNat ≤ 0x0FFE) (h : exec i s = .next t)
    (ht : t.halt = false) : t.pc.toNat ≤ 0x10FE := by
  have after : PcAfter i s t.pc := exec_pcAfter_of_running h ht
  have next2 {a : Word} (ha : a.toNat ≤ 0x0FFE) : (a + 2).toNat ≤ 0x10FE := by bv_omega
  have advanced : (s.pc + 2).toNat ≤ 0x10FE := next2 hp
  have skipped : (s.pc + 4).toNat ≤ 0x10FE := by bv_omega
  have stayed : s.pc.toNat ≤ 0x10FE := by omega
  cases i with
  | jp nnn | call nnn =>
    have := nnn.isLt
    have : t.pc.toNat = nnn.toNat := after
    omega
  | jpV0 nnn =>
    have := nnn.isLt
    have := (s.reg 0).isLt
    have : t.pc.toNat = (s.reg 0).toNat + nnn.toNat := after
    omega
  | ret =>
    obtain ⟨-, rfl⟩ | ⟨hsp, r, hr, rfl⟩ := execRet_eq_next.1 h
    · simp at ht
    · exact next2 (hs.entries (s.sp - 1) r (by omega) hr)
  | seByte | sneByte | seReg | sneReg | skp | sknp | ldVxK =>
    simp only [PcAfter] at after
    rw [after]
    split <;> assumption
  | _ =>
    have : t.pc = s.pc + 2 := after
    exact this ▸ advanced

/-- A legal configuration has a cadence of at least 1 (R37). -/
theorem cadence_pos_of_wf {c : Config} (hw : c.wf = true) : 1 ≤ c.cyclesPerTimerDecrement :=
  of_decide_eq_true (Bool.and_eq_true_iff.1 hw).2

/-! The invariant as a whole. -/

namespace State.Inv

variable {s : State}

theorem stackInv (hs : s.Inv) : s.StackInv := ⟨hs.stackLength, hs.spBound, hs.entries⟩

/-- The invariant says nothing of V, I, the timers, the screen, KEY, DIRTY, the draws and the sinks, and of TDIV its bound
only. -/
theorem of_eq (hs : s.Inv) {t : State}
    (h : t = { s with
      v := t.v, index := t.index, dt := t.dt, st := t.st, fb := t.fb, keys := t.keys, dirty := t.dirty
      tdiv := t.tdiv, draws := t.draws, emitted := t.emitted })
    (hd : t.tdiv < s.config.cyclesPerTimerDecrement) : t.Inv := by
  rw [h]
  exact ⟨hs.config, hs.mem, hs.stackLength, hs.spBound, hs.entries, hs.pcBound, hd, hs.running, hs.halted⟩

theorem cyclesPerTimerDecrement_pos (hs : s.Inv) : 1 ≤ s.config.cyclesPerTimerDecrement :=
  cadence_pos_of_wf hs.config

/-- Fault entry records a cause and EPC = PC (R236). -/
theorem enterFault (hs : s.Inv) {c : Cause} (hc : c ≠ .none) (a : Word) : (s.enterFault c a).Inv where
  config := hs.config
  mem := hs.mem
  stackLength := hs.stackLength
  spBound := hs.spBound
  entries := hs.entries
  pcBound := hs.pcBound
  cadence := hs.cadence
  running h := by simp at h
  halted _ := ⟨hc, rfl⟩

/-- The bookkeeping keeps TDIV below the cadence (R20, R244). -/
theorem timerBookkeeping (hs : s.Inv) : s.timerBookkeeping.Inv :=
  hs.of_eq (by rw [timerBookkeeping_eq]; split <;> rfl) (s.timerBookkeeping_tdiv_lt hs.cyclesPerTimerDecrement_pos)

theorem finishCycle (hs : s.Inv) (p w : Word) (i : Instr) : (s.finishCycle p w i).Inv := by
  cases hh : s.halt with
  | true => rw [finishCycle_of_halt _ _ _ hh]; exact hs
  | false =>
    rw [finishCycle_of_running _ _ _ hh, traceStep_eq]
    exact hs.timerBookkeeping.of_eq rfl hs.timerBookkeeping.cadence

theorem stallCycle (hs : s.Inv) (w : Word) : (s.stallCycle w).Inv :=
  (hs.of_eq (t := s.emit (.diagnostic w s.pc)) rfl hs.cadence).timerBookkeeping

/-- The handler of a fetched instruction keeps the invariant: it entered a fault, or it completed. -/
theorem exec (hs : s.Inv) (hh : s.halt = false) {w : Word} (hf : s.fetch = some w) {i : Instr} {t : State}
    (h : exec i s = .next t) : t.Inv := by
  obtain ⟨c, a, hc, rfl⟩ | ⟨hkept, -⟩ := exec_faultedOrMoved h
  · exact hs.enterFault hc a
  · have ht : t.halt = false := hkept.trans hh
    have hp : s.pc.toNat ≤ 0x0FFE := by have := ((s.fetch_eq_some w).1 hf).1; omega
    have kept := exec_handlerKeeps h
    obtain ⟨-, hcause, hepc, heword, headdr⟩ := (exec_writesOnlyItsOwn h).faultRegs ht
    have stack := exec_keeps_stackInv hs.stackInv hp h
    refine ⟨?_, ?_, stack.stackLength, stack.spBound, stack.entries, exec_pc_le hs.stackInv hp h ht, ?_, fun _ => ?_, ?_⟩
    · rw [kept.config]; exact hs.config
    · rw [kept.config]; exact exec_keeps_mem_wf hs.mem h
    · rw [kept.config, kept.tdiv]; exact hs.cadence
    · rw [hcause, hepc, heword, headdr]; exact hs.running hh
    · simp [ht]

end State.Inv

/-- Settles O13: each thing one step can do keeps the invariant. -/
theorem stepKeepsTheInvariant : Obligations.StepKeepsTheInvariant := by
  intro s t hs h
  obtain ⟨-, ⟨-, rfl⟩ | ⟨hh, ⟨-, rfl⟩ | ⟨w, hf, ⟨-, rfl⟩ | ⟨i, u, -, he, rfl⟩⟩⟩⟩ := step_cases h
  · exact hs
  · exact hs.enterFault (by decide) s.pc
  · exact hs.stallCycle w
  · exact (hs.exec hh hf he).finishCycle ..

/-- Reset gives the invariant under any legal configuration, whatever came before (R40, R271). -/
theorem State.hostReset_inv {s : State} (hw : s.config.wf = true) : s.hostReset.Inv where
  config := hw
  mem := rfl
  stackLength := List.length_replicate
  spBound := Nat.zero_le _
  entries _ _ hk _ := absurd hk (Nat.not_lt_zero _)
  pcBound := by simp
  cadence := cadence_pos_of_wf hw
  running _ := ⟨rfl, rfl, rfl, rfl⟩
  halted h := by cases h

/-- Settles O14: the reset state is its own Reset. -/
theorem resetHasTheInvariant : Obligations.ResetHasTheInvariant := State.hostReset_inv (s := State.reset) (by decide)

/-! Every cycle answers. -/

/-- A guarded data access answers either way. -/
theorem State.guardRange_answers (s t : State) (len : Nat) : ∃ u, s.guardRange len t = .next u := by
  unfold State.guardRange
  split <;> exact ⟨_, rfl⟩

/-- A handler that does not use the call stack answers at every state. -/
theorem exec_answers_of_no_stack {i : Instr} (hcall : ∀ nnn, i ≠ .call nnn) (hret : i ≠ .ret) (s : State) :
    ∃ t, exec i s = .next t := by
  cases i with
  | call nnn => exact absurd rfl (hcall nnn)
  | ret => exact absurd rfl hret
  | skp x | sknp x =>
    by_cases hx : 15 < (s.reg x).toNat
    · exact ⟨_, State.guardKey_eq_next.2 (.inl ⟨hx, rfl⟩)⟩
    · exact ⟨_, State.guardKey_eq_next.2 (.inr ⟨Nat.not_lt.1 hx, rfl⟩)⟩
  | ldVxK x =>
    cases hk : s.firstKey with
    | none => exact ⟨_, execLdVxK_eq_next.2 (.inl ⟨(s.firstKey_eq_none).1 hk, rfl⟩)⟩
    | some k => exact ⟨_, execLdVxK_eq_next.2 (.inr ⟨k, hk, rfl⟩)⟩
  | drw | ldBVx | ldMemVx | ldVxMem => exact s.guardRange_answers ..
  | _ => exact ⟨_, rfl⟩

/-- With SP inside the stack every handler answers: CALL and RET find their entry (R29). -/
theorem exec_answers {s : State} (hs : s.StackInv) (i : Instr) : ∃ t, exec i s = .next t := by
  obtain ⟨len, bound, -⟩ := hs
  cases i with
  | call nnn =>
    by_cases full : s.sp = s.config.stackDepth
    · exact ⟨_, execCall_eq_next.2 (.inl ⟨full, rfl⟩)⟩
    · exact ⟨_, execCall_eq_next.2 (.inr ⟨full, by omega, rfl⟩)⟩
  | ret =>
    by_cases empty : s.sp = 0
    · exact ⟨_, execRet_eq_next.2 (.inl ⟨empty, rfl⟩)⟩
    · have hlt : s.sp - 1 < s.stack.length := by omega
      exact ⟨_, execRet_eq_next.2 (.inr ⟨empty, _, List.getElem?_eq_getElem hlt, rfl⟩)⟩
  | _ => exact exec_answers_of_no_stack (by simp) (by simp) s

/-- Settles O16: a legal configuration is not refused, and each way a cycle can go answers. -/
theorem everyCycleAnswers : Obligations.EveryCycleAnswers := by
  intro s hs
  cases hh : s.halt with
  | true => exact ⟨_, step_of_halt hs.config hh⟩
  | false =>
    cases hf : s.fetch with
    | none => exact ⟨_, step_of_no_fetch hs.config hh hf⟩
    | some w =>
      cases hd : decodeWord w with
      | unrecognized => exact ⟨_, step_of_unrecognized hs.config hh hf hd⟩
      | recognized i =>
        obtain ⟨u, he⟩ := exec_answers hs.stackInv i
        exact ⟨_, step_of_exec hs.config hh hf hd he⟩

end Sys2Proof.Machine
end

section
/-! The cycle as a whole: the decoded instruction's run (R120), which cycles fault and how a cycle ends (R230 to R239), and
the stall of an unrecognized word (R124). -/

namespace Sys2Proof.Machine

/-! The step of a decoded instruction. -/

theorem ne_refused_of_answers {o : Host.Outcome State Fault Refusal} (h : ∃ t, o = .next t) (r : Refusal) :
    o ≠ .refused r := by
  obtain ⟨t, rfl⟩ := h
  simp

/-- No handler refuses its instruction. -/
theorem exec_ne_refused (i : Instr) (s : State) (r : Refusal) : exec i s ≠ .refused r := by
  cases i with
  | call =>
    simp only [exec, execCall]
    split_ifs <;> simp
  | ret =>
    simp only [exec, execRet]
    split_ifs
    · simp
    · cases s.stack[s.sp - 1]? <;> simp
  | _ => exact ne_refused_of_answers (exec_answers_of_no_stack (by simp) (by simp) s) r

/-- Settles O5: the cycle is the handler and the end of the cycle, which does nothing after a fault and reads the trace bit
the handler has not written. -/
theorem stepRunsTheDecodedInstruction : Obligations.StepRunsTheDecodedInstruction := by
  intro s w i hr hf hd
  have ⟨hw, hh⟩ := hr
  refine ⟨fun t he ht => ?_, fun t he ht => ?_, fun r he => ?_, exec_ne_refused i s⟩
  · rw [step_of_exec hw hh hf hd he, State.finishCycle_of_halt _ _ _ ht]
  · rw [step_of_completed hr hf hd he ht, State.traceStep, State.timerBookkeeping_config, (exec_handlerKeeps he).config]
  · simp [step, stateOf, cycle_eq_runInstr hw hh hf hd, runInstr, he]

/-! Which handlers fault, and how. -/

/-- The fault that `i` took at `s`, with its cause and EADDR (R231 to R239). -/
def FaultTaken (i : Instr) (s t : State) : Prop :=
  (i = .ret ∧ s.sp = 0 ∧ t.cause = .stackUnderflow ∧ t.eaddr = 0) ∨
  ((∃ nnn, i = .call nnn) ∧ s.sp = s.config.stackDepth ∧ t.cause = .stackOverflow ∧ t.eaddr = 0) ∨
  ((∃ len, AccessesThroughI i len ∧ TouchesOutside s len) ∧
    t.cause = .memOob ∧ t.eaddr = BitVec.ofNat 16 (max s.index.toNat 4096)) ∨
  (∃ x, (i = .skp x ∨ i = .sknp x) ∧ 15 < (s.reg x).toNat ∧ t.cause = .keyOob ∧ t.eaddr = (s.reg x).setWidth 16)

/-- A data access that halts is out of range (R235). -/
theorem faultTaken_of_access {i : Instr} {len : Nat} {s t : State} (hi : AccessesThroughI i len)
    (h : exec i s = .next t) (hs : s.halt = false) (ht : t.halt = true) : FaultTaken i s t := by
  obtain ⟨u, he, ⟨hu, -⟩, -⟩ := hi.exec_eq_guardRange s
  obtain ⟨hout, rfl⟩ | ⟨-, rfl⟩ := State.guardRange_eq_next.1 (he.symm.trans h)
  · exact .inr (.inr (.inl ⟨⟨len, hi, State.outOfRange_eq_true.1 hout⟩, rfl, rfl⟩))
  · simp [hu, hs] at ht

/-- A key skip that halts has its index above 15 (R237). -/
theorem faultTaken_of_guardKey {i : Instr} {x : RegNum} {skip : Bool} {s t : State} (hi : i = .skp x ∨ i = .sknp x)
    (h : s.guardKey x skip = .next t) (hs : s.halt = false) (ht : t.halt = true) : FaultTaken i s t := by
  obtain ⟨hx, rfl⟩ | ⟨-, rfl⟩ := State.guardKey_eq_next.1 h
  · exact .inr (.inr (.inr ⟨x, hi, hx, rfl, rfl⟩))
  · simp [hs] at ht

/-- A handler that halts the CORE took one of the faults. -/
theorem exec_faultTaken {i : Instr} {s t : State} (h : exec i s = .next t) (hs : s.halt = false)
    (ht : t.halt = true) : FaultTaken i s t := by
  cases i with
  | ret =>
    obtain ⟨h0, rfl⟩ | ⟨-, r, -, rfl⟩ := execRet_eq_next.1 h
    · exact .inl ⟨rfl, h0, rfl, rfl⟩
    · simp [hs] at ht
  | call nnn =>
    obtain ⟨hfull, rfl⟩ | ⟨-, -, rfl⟩ := execCall_eq_next.1 h
    · exact .inr (.inl ⟨⟨nnn, rfl⟩, hfull, rfl, rfl⟩)
    · simp [hs] at ht
  | drw x y n => exact faultTaken_of_access (.inl ⟨x, y, n, rfl, rfl⟩) h hs ht
  | ldBVx x => exact faultTaken_of_access (.inr (.inl ⟨x, rfl, rfl⟩)) h hs ht
  | ldMemVx x => exact faultTaken_of_access (.inr (.inr (.inl ⟨x, rfl, rfl⟩))) h hs ht
  | ldVxMem x => exact faultTaken_of_access (.inr (.inr (.inr ⟨x, rfl, rfl⟩))) h hs ht
  | skp => exact faultTaken_of_guardKey (.inl rfl) h hs ht
  | sknp => exact faultTaken_of_guardKey (.inr rfl) h hs ht
  | ldVxK => simp [(execLdVxK_keepsFaultRegs h).1, hs] at ht
  | _ => cases h; simp [hs] at ht

/-- The accesses out of range, one instruction at a time. -/
theorem accessesOutside_iff {i : Instr} {s : State} :
    (∃ len, AccessesThroughI i len ∧ TouchesOutside s len) ↔
      (∃ x y n, i = .drw x y n ∧ TouchesOutside s n.toNat) ∨ (∃ x, i = .ldBVx x ∧ TouchesOutside s 3) ∨
        (∃ x, i = .ldMemVx x ∧ TouchesOutside s (x.toNat + 1)) ∨
        (∃ x, i = .ldVxMem x ∧ TouchesOutside s (x.toNat + 1)) := by
  constructor
  · rintro ⟨_, ⟨x, y, n, rfl, rfl⟩ | ⟨x, rfl, rfl⟩ | ⟨x, rfl, rfl⟩ | ⟨x, rfl, rfl⟩, h⟩
    · exact .inl ⟨x, y, n, rfl, h⟩
    · exact .inr (.inl ⟨x, rfl, h⟩)
    · exact .inr (.inr (.inl ⟨x, rfl, h⟩))
    · exact .inr (.inr (.inr ⟨x, rfl, h⟩))
  · rintro (⟨x, y, n, rfl, h⟩ | ⟨x, rfl, h⟩ | ⟨x, rfl, h⟩ | ⟨x, rfl, h⟩)
    · exact ⟨_, .inl ⟨x, y, n, rfl, rfl⟩, h⟩
    · exact ⟨_, .inr (.inl ⟨x, rfl, rfl⟩), h⟩
    · exact ⟨_, .inr (.inr (.inl ⟨x, rfl, rfl⟩)), h⟩
    · exact ⟨_, .inr (.inr (.inr ⟨x, rfl, rfl⟩)), h⟩

/-- Settles O12: a step that ends halted failed its fetch or ran a handler that took a fault; a stall cannot. -/
theorem faultCausesAndTheirOrder : Obligations.FaultCausesAndTheirOrder := by
  refine ⟨⟨rfl, rfl, rfl, rfl, rfl, rfl⟩, fun s t hr h ht => ?_⟩
  obtain ⟨-, ⟨hhalt, -⟩ | ⟨hh, ⟨hf, rfl⟩ | ⟨w, hf, ⟨-, rfl⟩ | ⟨i, u, hd, he, rfl⟩⟩⟩⟩ := step_cases h
  · simp [hr.2] at hhalt
  · exact .inl ⟨hf, rfl, rfl⟩
  · simp [hh] at ht
  · have hu : u.halt = true := (u.finishCycle_halt ..).symm.trans ht
    rw [State.finishCycle_of_halt _ _ _ hu]
    refine .inr ⟨w, i, hf, hd, ?_⟩
    rw [← accessesOutside_iff]
    exact exec_faultTaken he hh hu

/-! How a cycle ends. -/

/-- The end of a cycle that answers, told from HALT before and after and from the word at PC (R121, R124, R236). -/
theorem cycle_ending {s t : State} {e : CycleEnd} (h : cycle s = .next (t, e)) :
    (e = .halted ↔ s.halt = true) ∧ ((∃ c, e = .faulted c) ↔ s.halt = false ∧ t.halt = true) ∧
      (∀ c, e = .faulted c → t.cause = c) ∧ (e = .stalled ↔ s.Hung) := by
  obtain ⟨-, ⟨hh, rfl, rfl⟩ | ⟨hh, ⟨hf, rfl, rfl⟩ | ⟨w, hf, ⟨hd, rfl, rfl⟩ | ⟨i, u, hd, he, rfl, rfl⟩⟩⟩⟩ := cycle_cases h
  · simp [State.Hung, hh]
  · simp [State.Hung, hh, hf]
  · simp [State.Hung, hh, hf, hd]
  · cases hu : u.halt with
    | true => simp [State.Hung, hh, hf, hd, State.handlerEnd_of_halt hu, State.finishCycle_of_halt _ _ _ hu, hu]
    | false => simp [State.Hung, hh, hf, hd, State.handlerEnd_of_running hu, hu]

/-- Settles O11: a step that ends halted is fault entry alone, and `cycle_ending` reads off its outcome. -/
theorem faultsArePrecise : Obligations.FaultsArePrecise := by
  refine ⟨fun s t hr h ht => ?_, fun s t e h => ⟨stateOf_eq_next.2 ⟨e, h⟩, cycle_ending h⟩⟩
  obtain ⟨e, hc⟩ := stateOf_eq_next.1 h
  obtain ⟨-, faulted, cause, -⟩ := cycle_ending hc
  obtain ⟨c, rfl⟩ := faulted.2 ⟨hr.2, ht⟩
  obtain rfl := cause c rfl
  obtain ⟨c, a, hne, rfl⟩ := step_eq_enterFault_of_halt hr h ht
  exact ⟨tookFault_enterFault c a rfl, hne, hc⟩

/-! The stall of an unrecognized word. -/

/-- What a stall may write, and its host's KEY vectors: the timers with TDIV, KEY and the sinks (R124, R251). -/
def SameButTimersKeysAndSinks (s t : State) : Prop :=
  t = { s with dt := t.dt, st := t.st, tdiv := t.tdiv, keys := t.keys, emitted := t.emitted }

theorem SameButTimersKeysAndSinks.trans {s t u : State} (h : SameButTimersKeysAndSinks s t)
    (h' : SameButTimersKeysAndSinks t u) : SameButTimersKeysAndSinks s u := by
  unfold SameButTimersKeysAndSinks at *
  rw [h'.trans (by rw [h])]

/-- Everything else is unchanged. -/
theorem SameButTimersKeysAndSinks.frame {s t : State} (h : SameButTimersKeysAndSinks s t) :
    t.pc = s.pc ∧ t.fetch = s.fetch ∧ KeepsRegs (fun _ => False) s t ∧ KeepsIndex s t ∧ KeepsMem s t ∧ KeepsStack s t ∧
      KeepsScreen s t ∧ KeepsFaultRegs s t ∧ t.config = s.config ∧ KeepsDraws s t := by
  rw [h]
  exact ⟨rfl, rfl, fun _ _ => rfl, rfl, fun _ => rfl, ⟨rfl, rfl⟩, ⟨fun _ => rfl, rfl⟩, ⟨rfl, rfl, rfl, rfl, rfl⟩, rfl, rfl⟩

/-- `s` is ready before the unrecognized word `w`. -/
def StallsAt (w : Word) (s : State) : Prop := s.Ready ∧ s.fetch = some w ∧ decodeWord w = .unrecognized

theorem StallsAt.of_same {w : Word} {s t : State} (hs : StallsAt w s) (h : SameButTimersKeysAndSinks s t) :
    StallsAt w t := by
  obtain ⟨⟨hw, hh⟩, hf, hd⟩ := hs
  obtain ⟨-, fetch, -, -, -, -, -, ⟨halt, -⟩, config, -⟩ := h.frame
  exact ⟨⟨by rw [config, hw], by rw [halt, hh]⟩, fetch.trans hf, hd⟩

theorem StallsAt.hung {w : Word} {s : State} (hs : StallsAt w s) : s.Hung := ⟨hs.1.2, w, hs.2⟩

theorem StallsAt.step {w : Word} {s : State} (hs : StallsAt w s) : step s = .next (s.stallCycle w) :=
  step_of_unrecognized hs.1.1 hs.1.2 hs.2.1 hs.2.2

namespace State

variable (s : State) (w : Word)

theorem stallCycle_same : SameButTimersKeysAndSinks s (s.stallCycle w) := by
  unfold SameButTimersKeysAndSinks stallCycle
  rw [timerBookkeeping_eq]
  split <;> rfl

@[simp] theorem stallCycle_keys : (s.stallCycle w).keys = s.keys := timerBookkeeping_keys _

/-- The bookkeeping of a stall does not see the diagnostic. -/
theorem stallCycle_timers :
    (s.stallCycle w).dt = s.timerBookkeeping.dt ∧ (s.stallCycle w).st = s.timerBookkeeping.st ∧
      (s.stallCycle w).tdiv = s.timerBookkeeping.tdiv := by
  by_cases due : s.config.cyclesPerTimerDecrement ≤ s.tdiv + 1
  · rw [stallCycle, timerBookkeeping_of_due due, timerBookkeeping_of_due (s := s.emit _) due]
    exact ⟨rfl, rfl, rfl⟩
  · rw [stallCycle, timerBookkeeping_of_below (Nat.not_le.1 due),
      timerBookkeeping_of_below (s := s.emit _) (Nat.not_le.1 due)]
    exact ⟨rfl, rfl, rfl⟩

/-- The sinks after a stall: the diagnostic (R253), and after it a sound edge if the bookkeeping takes ST from 1 to 0. -/
theorem stallCycle_emitted :
    (s.stallCycle w).emitted =
      if s.config.cyclesPerTimerDecrement ≤ s.tdiv + 1 ∧ s.st = 1 then .soundEdge :: .diagnostic w s.pc :: s.emitted
      else .diagnostic w s.pc :: s.emitted :=
  timerBookkeeping_emitted _

theorem count_diagnostic_stallCycle :
    (s.stallCycle w).emitted.count (.diagnostic w s.pc) = s.emitted.count (.diagnostic w s.pc) + 1 := by
  rw [stallCycle_emitted]
  split <;> simp

end State

/-- A stalled CORE stalls for ever, whatever KEY is supplied, and delivers one diagnostic a cycle. -/
theorem runCycles_of_stallsAt {w : Word} (n : Nat) {s : State} (hs : StallsAt w s) (keys : List (BitVec 16)) :
    ∃ u, runCycles n keys s = .next u ∧ SameButTimersKeysAndSinks s u ∧ (keys = [] → u.keys = s.keys) ∧
      u.emitted.count (.diagnostic w s.pc) = s.emitted.count (.diagnostic w s.pc) + n := by
  induction n generalizing s keys with
  | zero => exact ⟨s, by cases keys <;> rfl, rfl, fun _ => rfl, rfl⟩
  | succ n ih =>
    cases keys with
    | nil =>
      have same := s.stallCycle_same w
      obtain ⟨u, hrun, hu, hk, hcount⟩ := ih (hs.of_same same) []
      rw [s.stallCycle_pc, s.count_diagnostic_stallCycle] at hcount
      exact ⟨u, (runCycles_succ_nil n hs.step).trans hrun, same.trans hu, fun _ => (hk rfl).trans (s.stallCycle_keys w),
        by omega⟩
    | cons k ks =>
      have hs' : StallsAt w (s.setKeys k) := hs.of_same rfl
      have same : SameButTimersKeysAndSinks s ((s.setKeys k).stallCycle w) :=
        .trans (t := s.setKeys k) rfl ((s.setKeys k).stallCycle_same w)
      obtain ⟨u, hrun, hu, -, hcount⟩ := ih (hs.of_same same) ks
      have count := (s.setKeys k).count_diagnostic_stallCycle w
      rw [State.stallCycle_pc, State.setKeys_pc] at hcount
      rw [State.setKeys_pc, State.setKeys_emitted] at count
      exact ⟨u, (runCycles_succ_cons n ks hs'.step).trans hrun, same.trans hu, by simp, by omega⟩

/-- Settles O8: one stall is the diagnostic and the bookkeeping, and `runCycles_of_stallsAt` repeats it. -/
theorem unrecognizedWordStalls : Obligations.UnrecognizedWordStalls := by
  intro s w hr hf hd
  have hs : StallsAt w s := ⟨hr, hf, hd⟩
  refine ⟨⟨_, hs.step, ?_⟩, fun n keys => ?_⟩
  · obtain ⟨pc, fetch, regs, index, mem, stack, screen, faultRegs, config, draws⟩ := (s.stallCycle_same w).frame
    obtain ⟨dt, st, tdiv⟩ := s.stallCycle_timers w
    refine ⟨pc, fetch.trans hf, regs, index, mem, stack, screen, faultRegs, ⟨s.stallCycle_keys w, config⟩, draws, dt, st,
      tdiv, ?_⟩
    rw [s.stallCycle_emitted]
    by_cases edge : s.config.cyclesPerTimerDecrement ≤ s.tdiv + 1 ∧ s.st = 1
    · refine .inr ⟨if_pos edge, by simp [edge.2], ?_⟩
      rw [st, State.timerBookkeeping_of_due edge.1, State.updateSt_st, edge.2]
      rfl
    · exact .inl (if_neg edge)
  · obtain ⟨u, hrun, same, hkeys, hcount⟩ := runCycles_of_stallsAt n hs keys
    have hu := hs.of_same same
    obtain ⟨pc, fetch, regs, index, mem, stack, screen, faultRegs, config, draws⟩ := same.frame
    exact ⟨u, hrun, hu.1, hu.hung, pc, fetch.trans hf, regs, index, mem, stack, screen, faultRegs, config, hkeys, draws,
      hcount⟩

end Sys2Proof.Machine
end

section
/-! Single instructions: who writes VF (R22), what none of them reads (R33, R37, R41, R129), matched calls and returns
(R29), drawing twice (R191), and what a store leaves for loads and fetches (R73, R224); and the canonical form of MEM
(R60). -/

namespace Sys2Proof.Machine

/-! The writers of VF. -/

/-- An instruction that writes one register changes VF only if that register is VF. -/
theorem State.eq_flag_of_setReg_ne {s t : State} {x : RegNum} {b : Byte} (ht : t = (s.setReg x b).advance)
    (h : t.reg 15 ≠ s.reg 15) : x = 15 := by
  by_contra hx
  exact h (ht ▸ (s.reg_setReg x 15 b).trans (if_neg (Ne.symm hx)))

/-- Settles O48: every other handler writes one register, the registers up to V[X], or none. -/
theorem writersOfTheFlag : Obligations.WritersOfTheFlag := by
  intro i s t h hne
  cases i with
  | addReg x y => exact .inl ⟨x, y, .inl rfl⟩
  | sub x y => exact .inl ⟨x, y, .inr (.inl rfl)⟩
  | subn x y => exact .inl ⟨x, y, .inr (.inr rfl)⟩
  | shr x => exact .inr (.inl ⟨x, .inl rfl⟩)
  | shl x => exact .inr (.inl ⟨x, .inr rfl⟩)
  | drw x y n => exact .inr (.inr (.inl ⟨x, y, n, rfl⟩))
  | addIVx x => exact .inr (.inr (.inr (.inl ⟨x, rfl⟩)))
  | ldByte x nn | addByte x nn | ldReg x y | orReg x y | andReg x y | xorReg x y | ldVxDt x =>
    cases h
    obtain rfl := State.eq_flag_of_setReg_ne rfl hne
    simp
  | rnd x nn =>
    cases h
    obtain rfl := State.eq_flag_of_setReg_ne (s := s) rfl hne
    simp
  | ldVxK x =>
    obtain ⟨-, rfl⟩ | ⟨k, -, rfl⟩ := execLdVxK_eq_next.1 h
    · exact absurd rfl hne
    · obtain rfl := State.eq_flag_of_setReg_ne rfl hne
      simp
  | ldVxMem x =>
    obtain ⟨-, rfl⟩ | ⟨-, rfl⟩ := State.guardRange_eq_next.1 h
    · exact absurd rfl hne
    · have hx : x = 15 := by
        by_contra hx
        have : ¬(15 : RegNum).toNat ≤ x.toNat := by bv_omega
        exact hne ((s.reg_loadRegs_advance x 15 _).trans (if_neg this))
      simp [hx]
  | call => obtain ⟨-, rfl⟩ | ⟨-, -, rfl⟩ := execCall_eq_next.1 h <;> exact absurd rfl hne
  | ret => obtain ⟨-, rfl⟩ | ⟨-, r, -, rfl⟩ := execRet_eq_next.1 h <;> exact absurd rfl hne
  | skp | sknp => obtain ⟨-, rfl⟩ | ⟨-, rfl⟩ := State.guardKey_eq_next.1 h <;> exact absurd rfl hne
  | ldBVx | ldMemVx => obtain ⟨-, rfl⟩ | ⟨-, rfl⟩ := State.guardRange_eq_next.1 h <;> exact absurd (by simp) hne
  | _ => cases h; exact absurd rfl hne

/-! What no handler reads: the draws, which only RND does, DIRTY, the sinks and the configuration registers. -/

/-- Values for the state that no instruction but RND reads (R33, R37, R129, R254). -/
structure Unread where
  draws : Nat
  dirty : Bool
  emitted : List Event
  perUpdate : Nat
  perDecrement : Nat
  trace : Bool

/-- The values a state holds. -/
def State.unread (s : State) : Unread where
  draws := s.draws
  dirty := s.dirty
  emitted := s.emitted
  perUpdate := s.config.cyclesPerUpdate
  perDecrement := s.config.cyclesPerTimerDecrement
  trace := s.config.traceEnabled

/-- The state with other such values. -/
def State.disguise (s : State) (k : Unread) : State :=
  { s.configure k.perUpdate k.perDecrement k.trace with draws := k.draws, dirty := k.dirty, emitted := k.emitted }

/-- The outcome `o` is that of a handler which took `s` to `t`, run at the disguised `s`: the disguised `t`, with what the
handler itself wrote of DIRTY and the sinks. -/
def SeesNoDisguise (k : Unread) (s t : State) (o : Host.Outcome State Fault Refusal) : Prop :=
  ∃ d es, o = .next (t.disguise { k with dirty := d, emitted := es }) ∧ (k.dirty = s.dirty → d = t.dirty) ∧
    (k.emitted = s.emitted → es = t.emitted)

section disguise

variable {s t : State} {k : Unread}

/-- A handler that writes neither DIRTY nor the sinks keeps the disguise as it is. -/
theorem seesNoDisguise_of_eq {o : Host.Outcome State Fault Refusal} (ho : o = .next (t.disguise k))
    (hd : t.dirty = s.dirty) (he : t.emitted = s.emitted) : SeesNoDisguise k s t o :=
  ⟨k.dirty, k.emitted, ho, fun h => h.trans hd.symm, fun h => h.trans he.symm⟩

theorem State.storeBytes_disguise (a : Nat) (bs : List Byte) :
    (s.disguise k).storeBytes a bs = (s.storeBytes a bs).disguise k := by
  induction bs generalizing s a with
  | nil => rfl
  | cons b bs ih => exact ih (s := s.writeByte a b) (a + 1)

theorem State.bytesAt_disguise (a n : Nat) : (s.disguise k).bytesAt a n = s.bytesAt a n := by
  induction n generalizing a with
  | zero => rfl
  | succ n ih => exact congrArg (s.readByte a :: ·) (ih (a + 1))

theorem State.blit_disguise (x y : RegNum) (n : BitVec 4) : (s.disguise k).blit x y n = s.blit x y n :=
  congrArg (fun bs => drawRows bs _ _) (s.bytesAt_disguise _ _)

/-- A guarded data access sees no disguise if its effect does not (R235). -/
theorem seesNoDisguise_guardRange {u u' : State} {len : Nat} (h : s.guardRange len u = .next t)
    (hu : SeesNoDisguise k s u (.next u')) : SeesNoDisguise k s t ((s.disguise k).guardRange len u') := by
  obtain ⟨hout, rfl⟩ | ⟨hin, rfl⟩ := State.guardRange_eq_next.1 h
  · exact seesNoDisguise_of_eq (State.guardRange_eq_next.2 (.inl ⟨hout, rfl⟩)) rfl rfl
  · have hin' : (s.disguise k).guardRange len u' = .next u' := State.guardRange_eq_next.2 (.inr ⟨hin, rfl⟩)
    rwa [hin']

theorem seesNoDisguise_guardKey {x : RegNum} {skip : Bool} (h : s.guardKey x skip = .next t) :
    SeesNoDisguise k s t ((s.disguise k).guardKey x skip) := by
  obtain ⟨hx, rfl⟩ | ⟨hx, rfl⟩ := State.guardKey_eq_next.1 h
  · exact seesNoDisguise_of_eq (State.guardKey_eq_next.2 (.inl ⟨hx, rfl⟩)) rfl rfl
  · exact seesNoDisguise_of_eq (State.guardKey_eq_next.2 (.inr ⟨hx, rfl⟩)) rfl rfl

/-- Every instruction but RND does the same whatever the draws, DIRTY, the sinks and the configuration registers hold. -/
theorem exec_seesNoDisguise {i : Instr} (hi : ∀ x nn, i ≠ .rnd x nn) (h : exec i s = .next t) (k : Unread) :
    SeesNoDisguise k s t (exec i (s.disguise k)) := by
  cases i with
  | rnd x nn => exact absurd rfl (hi x nn)
  | cls => cases h; exact ⟨true, k.emitted, rfl, fun _ => rfl, id⟩
  | ldStVx x =>
    cases h
    exact ⟨k.dirty, if s.st ≠ 0 ∧ s.reg x = 0 then .soundEdge :: k.emitted else k.emitted, rfl, id,
      fun he => by rw [he]; rfl⟩
  | drw =>
    refine seesNoDisguise_guardRange h ⟨true, k.emitted, ?_, fun _ => rfl, id⟩
    rw [State.blit_disguise]
    rfl
  | ldBVx | ldMemVx =>
    refine seesNoDisguise_guardRange h (seesNoDisguise_of_eq ?_ (by simp) (by simp))
    exact congrArg (fun u : State => Host.Outcome.next u.advance) (State.storeBytes_disguise ..)
  | ldVxMem => exact seesNoDisguise_guardRange h (seesNoDisguise_of_eq rfl rfl rfl)
  | skp | sknp => exact seesNoDisguise_guardKey h
  | call =>
    obtain ⟨hsp, rfl⟩ | ⟨hsp, hlen, rfl⟩ := execCall_eq_next.1 h
    · exact seesNoDisguise_of_eq (execCall_eq_next.2 (.inl ⟨hsp, rfl⟩)) rfl rfl
    · exact seesNoDisguise_of_eq (execCall_eq_next.2 (.inr ⟨hsp, hlen, rfl⟩)) rfl rfl
  | ret =>
    obtain ⟨hsp, rfl⟩ | ⟨hsp, r, hr, rfl⟩ := execRet_eq_next.1 h
    · exact seesNoDisguise_of_eq (execRet_eq_next.2 (.inl ⟨hsp, rfl⟩)) rfl rfl
    · exact seesNoDisguise_of_eq (execRet_eq_next.2 (.inr ⟨hsp, r, hr, rfl⟩)) rfl rfl
  | ldVxK =>
    obtain ⟨hk, rfl⟩ | ⟨n, hn, rfl⟩ := execLdVxK_eq_next.1 h
    · exact seesNoDisguise_of_eq (execLdVxK_eq_next.2 (.inl ⟨hk, rfl⟩)) rfl rfl
    · exact seesNoDisguise_of_eq (execLdVxK_eq_next.2 (.inr ⟨n, hn, rfl⟩)) rfl rfl
  | _ => cases h; exact seesNoDisguise_of_eq rfl rfl rfl

/-- A disguise of DIRTY and the sinks alone may change nothing else. -/
theorem exec_withDirtyAndSinks {i : Instr} (h : exec i s = .next t) (d : Bool) (es : List Event) :
    ∃ d' es', exec i { s with dirty := d, emitted := es } = .next { t with dirty := d', emitted := es' } := by
  by_cases hi : ∀ x nn, i ≠ .rnd x nn
  · have hc : t.config = s.config := (exec_handlerKeeps h).config
    have hdraws : t.draws = s.draws := (exec_writesOnlyItsOwn h).draws hi
    obtain ⟨d', es', hs, -⟩ := exec_seesNoDisguise hi h { s.unread with dirty := d, emitted := es }
    refine ⟨d', es', hs.trans ?_⟩
    rw [State.unread, ← hc, ← hdraws]
    rfl
  · push Not at hi
    obtain ⟨x, nn, rfl⟩ := hi
    cases h
    exact ⟨d, es, rfl⟩

/-- A disguise of the draws and the configuration registers changes nothing else. -/
theorem exec_withDrawsAndConfig {i : Instr} (hi : ∀ x nn, i ≠ .rnd x nn) (h : exec i s = .next t) (n u d : Nat)
    (tr : Bool) :
    exec i { s.configure u d tr with draws := n } = .next { t.configure u d tr with draws := n } := by
  obtain ⟨d', es', hs, hd, he⟩ := exec_seesNoDisguise hi h ⟨n, s.dirty, s.emitted, u, d, tr⟩
  rw [hd rfl, he rfl] at hs
  exact hs

end disguise

/-- Settles O31: no other handler writes the count of draws or reads it. -/
theorem onlyRandomReadsTheDraws : Obligations.OnlyRandomReadsTheDraws := by
  intro i s t n hi h
  have hc : t.config = s.config := (exec_handlerKeeps h).config
  refine ⟨(exec_writesOnlyItsOwn h).draws hi, ?_⟩
  have same := exec_withDrawsAndConfig hi h n s.config.cyclesPerUpdate s.config.cyclesPerTimerDecrement
    s.config.traceEnabled
  refine same.trans ?_
  rw [← hc]
  rfl

/-- Settles O30: RND writes one register and the count of draws. -/
theorem randomIsAMaskedDraw : Obligations.RandomIsAMaskedDraw := by
  refine ⟨encodes_of_family fun _ => decodeWord_of_familyC, fun x nn s => ?_⟩
  have drawn : ((s.setReg x (nn &&& s.drawnByte)).countDraw).advance.reg x = nn &&& s.drawnByte :=
    s.setReg_advance_reg_self x _
  refine ⟨_, rfl, drawn, ?_, rfl, rfl, fun r hr => (s.reg_setReg x r _).trans (if_neg hr), rfl, fun _ => rfl, ⟨rfl, rfl⟩,
    ⟨rfl, rfl, rfl⟩, ⟨fun _ => rfl, rfl⟩, ⟨rfl, rfl, rfl, rfl, rfl⟩, ⟨rfl, rfl⟩, rfl⟩
  rw [drawn]
  refine BitVec.eq_of_getLsbD_eq fun k hk => ?_
  simp only [BitVec.getLsbD_and, BitVec.getLsbD_not, BitVec.getLsbD_zero, BitVec.ofNat_eq_ofNat]
  cases nn.getLsbD k <;> simp

/-! The call stack. -/

/-- Settles O21: both handlers look for an entry that is not there. -/
theorem stackIndexOutsideTheStackStops : Obligations.StackIndexOutsideTheStackStops := by
  refine ⟨fun s hsp hr => ?_, fun nnn s hsp hlen => ?_⟩
  · simp [exec, execRet, hsp, hr]
  · simp [exec, execCall, hsp, hlen]

/-- Settles O25: RET finds the address CALL pushed, at the entry CALL pushed it to. -/
theorem callThenReturnResumes : Obligations.CallThenReturnResumes := by
  intro nnn s hsp hlen
  obtain ⟨t, hcall, -, hsp', hentry, -⟩ := callPushesItsOwnAddress.2.1 nnn s hsp hlen
  have hpop : t.stack[t.sp - 1]? = some s.pc := by rw [hsp']; exact hentry
  obtain ⟨u, hret, hpc, husp, hstack, -⟩ := returnPopsTheCallSite.2.1 t s.pc (by omega) hpop
  exact ⟨t, u, hcall, hret, hpc, by omega, by rw [hstack]; exact hentry⟩

/-! Drawing twice. -/

/-- Which cells a sprite covers depends on I, the bytes of MEM and the two coordinates only. -/
theorem spriteCovers_congr {s t : State} {x y : RegNum} {n : BitVec 4} {off : Nat} (hi : KeepsIndex s t)
    (hm : KeepsMem s t) (hx : t.reg x = s.reg x) (hy : t.reg y = s.reg y) :
    SpriteCovers t x y n off ↔ SpriteCovers s x y n off := by
  have hindex : t.index = s.index := hi
  unfold SpriteCovers
  simp only [hindex, hm _, hx, hy]

/-- Settles O33: both draws flip the same cells, so the second flips back what the first flipped; where the covered cells
were clear, the first collides with none and the second with each of them. -/
theorem drawTwiceRestores : Obligations.DrawTwiceRestores := by
  refine ⟨fun x y n s hx hy hin => ?_, fun x y n s hin hmiss => ?_⟩
  · obtain ⟨t, ht, cells, -, miss, -, -, regs, index, mem, -⟩ := drawFlipsTheCoveredCells.2.1 x y n s hin
    have covers (off : Nat) : SpriteCovers t x y n off ↔ SpriteCovers s x y n off :=
      spriteCovers_congr index mem (regs x hx) (regs y hy)
    have hin' : ¬TouchesOutside t n.toNat := by rw [TouchesOutside, show t.index = s.index from index]; exact hin
    obtain ⟨u, hu, cells', hit', -⟩ := drawFlipsTheCoveredCells.2.1 x y n t hin'
    refine ⟨t, u, ht, hu, fun off ho => ?_, fun clear => ⟨miss ?_, ?_⟩⟩
    · by_cases hc : SpriteCovers s x y n off
      · rw [(cells' off ho).1 ((covers off).2 hc), (cells off ho).1 hc, Bool.not_not]
      · rw [(cells' off ho).2 (mt (covers off).1 hc), (cells off ho).2 hc]
    · rintro ⟨off, ho, hc, hset⟩
      simp [clear off ho hc] at hset
    · rintro ⟨off, ho, hc⟩
      exact hit' ⟨off, ho, (covers off).2 hc, by rw [(cells off ho).1 hc, clear off ho hc]; rfl⟩
  · have none : ∀ off, off < 2048 → ¬SpriteCovers s x y n off := by
      obtain none | zero | low := hmiss
      · exact none
      · rintro off - ⟨row, col, hrow, -, hbit, -⟩
        simp [zero row hrow] at hbit
      · rintro off ho ⟨row, col, -, -, -, rfl⟩
        omega
    obtain ⟨t, ht, cells, -, miss, dirty, -⟩ := drawFlipsTheCoveredCells.2.1 x y n s hin
    exact ⟨t, ht, fun off ho => (cells off ho).2 (none off ho), miss fun ⟨off, ho, hc, _⟩ => none off ho hc, dirty⟩

/-! What a store leaves for the next load and the next fetch. -/

/-- Settles O45: the load reads at I + r what the dump stored from V[r], and neither writes I or a register above X. -/
theorem dumpThenLoadRestores : Obligations.DumpThenLoadRestores := by
  intro x s hin
  obtain ⟨t, hdump, stored, -, -, regs, index, -⟩ := registerDump.2.1 x s hin
  have hindex : t.index = s.index := index
  obtain ⟨u, hload, loaded, -, above, index', -⟩ := registerLoad.2.1 x t (by rw [hindex]; exact hin)
  refine ⟨t, u, hdump, hload, index'.trans index, fun r => ?_⟩
  by_cases hr : r.toNat ≤ x.toNat
  · rw [loaded r hr, hindex, stored r hr]
  · exact (above r hr).trans (regs r not_false)

/-- The bytes after a dump (R222). -/
theorem readByte_dump {s : State} {x : RegNum} (hin : s.index.toNat + x.toNat ≤ 4095) (a : Nat) :
    (s.storeBytes s.index.toNat (s.regsUpTo x)).readByte a = byteAfterDump s x a := by
  have hlen : s.index.toNat + (s.regsUpTo x).length ≤ memSize := by rw [State.regsUpTo_length, memSize]; omega
  rw [s.readByte_storeBytes _ _ hlen, byteAfterDump]
  simp only [State.regsUpTo_length, State.getElem_regsUpTo]
  by_cases ha : s.index.toNat ≤ a ∧ a ≤ s.index.toNat + x.toNat
  · rw [if_pos ha, dif_pos (by omega)]
  · rw [if_neg ha, dif_neg (by omega)]

/-- The bytes after a store of decimal digits (R221). -/
theorem readByte_bcd {s : State} {x : RegNum} (hin : s.index.toNat + 2 ≤ 4095) (a : Nat) :
    (s.storeBytes s.index.toNat (bcdDigits (s.reg x))).readByte a = byteAfterBcd s x a := by
  have h0 : s.index.toNat < memSize := by rw [memSize]; omega
  have h1 : s.index.toNat + 1 < memSize := by rw [memSize]; omega
  have h2 : s.index.toNat + 2 < memSize := by rw [memSize]; omega
  simp only [bcdDigits, State.storeBytes, State.readByte_writeByte, byteAfterBcd, Nat.add_assoc, Nat.reduceAdd, h0, h1,
    h2, and_true]
  obtain rfl | rfl | rfl | ⟨n0, n1, n2⟩ : a = s.index.toNat ∨ a = s.index.toNat + 1 ∨ a = s.index.toNat + 2 ∨
      a ≠ s.index.toNat ∧ a ≠ s.index.toNat + 1 ∧ a ≠ s.index.toNat + 2 := by omega
  · simp
  · simp
  · simp
  · simp [n0, n1, n2]

/-- A fetch after a store reads its two bytes from what the store left. -/
theorem fetch_of_readByte {t : State} {p : Word} (hp : p.toNat + 1 ≤ 4095) {f : Nat → Byte}
    (h : ∀ a, t.readByte a = f a) : (t.setPc p).fetch = some (wordOfBytes (f p.toNat) (f (p.toNat + 1))) :=
  (State.fetch_eq_some ..).2 ⟨hp, by rw [← h, ← h]; rfl⟩

/-- Settles O46: MEM after the store is known byte by byte, and the fetch reads two of them. -/
theorem storeIsSeenByTheNextFetch : Obligations.StoreIsSeenByTheNextFetch := by
  refine fun x s p hp => ⟨fun hin => ?_, fun hin => ?_⟩
  · exact ⟨_, State.guardRange_succ_of_le _ hin, fetch_of_readByte hp (readByte_dump hin)⟩
  · exact ⟨_, State.guardRange_succ_of_le _ hin, fetch_of_readByte hp (readByte_bcd hin)⟩

/-! The canonical form of MEM. -/

namespace Memory

variable {rom : Vector Byte 80} {m m' : Memory} {lo a : Nat}

theorem wfFrom_cons {b : Nat} {w : Byte} :
    wfFrom rom lo ((b, w) :: m) = true ↔ lo ≤ b ∧ b < memSize ∧ w ≠ resetByte rom b ∧ m.wfFrom rom (b + 1) = true := by
  simp [wfFrom, and_assoc]

theorem read_cons_self (b : Nat) (w : Byte) : read rom ((b, w) :: m) b = w := by simp [read, find]

theorem read_cons_of_ne {b : Nat} (w : Byte) (h : b ≠ a) : read rom ((b, w) :: m) a = m.read rom a := by
  simp [read, find, h]

/-- Below the first address it may list, a canonical list reads as the reset contents. -/
theorem read_of_lt (hm : m.wfFrom rom lo = true) (ha : a < lo) : m.read rom a = resetByte rom a := by
  induction m generalizing lo with
  | nil => rfl
  | cons c rest ih =>
    obtain ⟨b, w⟩ := c
    obtain ⟨hb, -, -, hrest⟩ := wfFrom_cons.1 hm
    rw [read_cons_of_ne w (by omega)]
    exact ih hrest (by omega)

/-- A canonical list that reads like another lists no address below the first the other may list: it would list a byte
that equals the reset contents. -/
theorem le_of_read_eq {b : Nat} {w : Byte} (hm : wfFrom rom lo ((b, w) :: m) = true) (hm' : m'.wfFrom rom a = true)
    (h : ∀ c, c < memSize → read rom ((b, w) :: m) c = m'.read rom c) : a ≤ b := by
  obtain ⟨-, hb, hw, -⟩ := wfFrom_cons.1 hm
  by_contra hlt
  exact hw ((read_cons_self b w).symm.trans ((h b hb).trans (read_of_lt hm' (Nat.lt_of_not_le hlt))))

/-- Two canonical lists that read alike are equal: their first addresses are, the bytes there are, and the rests read
alike. -/
theorem eq_of_read_eq : ∀ {m m' : Memory} {lo : Nat}, m.wfFrom rom lo = true → m'.wfFrom rom lo = true →
    (∀ a, a < memSize → m.read rom a = m'.read rom a) → m = m'
  | [], [], _, _, _, _ => rfl
  | (b, _) :: _, [], _, hm, _, h => absurd (le_of_read_eq (a := b + 1) (m' := []) hm rfl h) (by omega)
  | [], (c, _) :: _, _, _, hm', h =>
    absurd (le_of_read_eq (a := c + 1) (m' := []) hm' rfl fun a ha => (h a ha).symm) (by omega)
  | (b, v) :: m, (c, w) :: m', _, hm, hm', h => by
    obtain ⟨-, hb, hv, hrest⟩ := wfFrom_cons.1 hm
    obtain ⟨-, hc, hw, hrest'⟩ := wfFrom_cons.1 hm'
    have hcb : c ≤ b := le_of_read_eq hm (wfFrom_cons.2 ⟨Nat.le_refl c, hc, hw, hrest'⟩) h
    have hbc : b ≤ c := le_of_read_eq hm' (wfFrom_cons.2 ⟨Nat.le_refl b, hb, hv, hrest⟩) fun a ha => (h a ha).symm
    obtain rfl : b = c := Nat.le_antisymm hbc hcb
    obtain rfl : v = w := by simpa only [read_cons_self] using h b hb
    have rests : ∀ a, a < memSize → read rom m a = read rom m' a := by
      intro a ha
      by_cases hab : a < b + 1
      · rw [read_of_lt hrest hab, read_of_lt hrest' hab]
      · have hne : b ≠ a := by omega
        simpa only [read_cons_of_ne v hne] using h a ha
    rw [eq_of_read_eq hrest hrest' rests]

end Memory

/-- Settles O17: the canonical form of MEM is the one from address 0 on. -/
theorem equalMemoriesAreEqualData : Obligations.EqualMemoriesAreEqualData :=
  fun _ _ _ hm hm' h => Memory.eq_of_read_eq hm hm' h

end Sys2Proof.Machine
end

section
/-! The whole cycle and the boundary: what a step keeps and cannot see (R32, R33, R37), and the moves of the host
(R248 to R254, R270, R277). -/

namespace Sys2Proof.Machine

/-! What one step keeps. -/

namespace State

variable (s : State) (p w : Word) (i : Instr)

@[simp] theorem finishCycle_keys : (s.finishCycle p w i).keys = s.keys := by
  unfold finishCycle; split <;> simp

@[simp] theorem finishCycle_config : (s.finishCycle p w i).config = s.config := by
  unfold finishCycle
  split
  · rfl
  · rw [traceStep_eq]; exact timerBookkeeping_config s

@[simp] theorem stallCycle_config : (s.stallCycle w).config = s.config := timerBookkeeping_config _

end State

/-- No cycle writes KEY or the configuration (R32, R37). -/
theorem step_keepsInputs {s t : State} (h : step s = .next t) : KeepsInputs s t := by
  obtain ⟨-, ⟨-, rfl⟩ | ⟨-, ⟨-, rfl⟩ | ⟨w, -, ⟨-, rfl⟩ | ⟨i, u, -, he, rfl⟩⟩⟩⟩ := step_cases h
  · exact ⟨rfl, rfl⟩
  · exact ⟨rfl, rfl⟩
  · exact ⟨s.stallCycle_keys w, s.stallCycle_config w⟩
  · exact ⟨(u.finishCycle_keys ..).trans (exec_writesOnlyItsOwn he).keys,
      (u.finishCycle_config ..).trans (exec_handlerKeeps he).config⟩

/-! What one step cannot see. -/

/-- The two states differ in DIRTY and the sinks at most. -/
def SameButDirtyAndSinks (s t : State) : Prop := ∃ d es, t = { s with dirty := d, emitted := es }

namespace SameButDirtyAndSinks

variable {s t : State} (h : SameButDirtyAndSinks s t)
include h

theorem emit (e e' : Event) : SameButDirtyAndSinks (s.emit e) (t.emit e') := by
  obtain ⟨d, es, rfl⟩ := h
  exact ⟨d, _, rfl⟩

theorem timerBookkeeping : SameButDirtyAndSinks s.timerBookkeeping t.timerBookkeeping := by
  obtain ⟨d, es, rfl⟩ := h
  by_cases due : s.config.cyclesPerTimerDecrement ≤ s.tdiv + 1
  · rw [State.timerBookkeeping_of_due due, State.timerBookkeeping_of_due (s := { s with dirty := d, emitted := es }) due]
    exact ⟨d, _, rfl⟩
  · rw [State.timerBookkeeping_of_below (Nat.not_le.1 due),
      State.timerBookkeeping_of_below (s := { s with dirty := d, emitted := es }) (Nat.not_le.1 due)]
    exact ⟨d, _, rfl⟩

theorem traceStep (p w : Word) (i : Instr) : SameButDirtyAndSinks (s.traceStep p w i) (t.traceStep p w i) := by
  have hc : t.config = s.config := by obtain ⟨d, es, rfl⟩ := h; rfl
  unfold State.traceStep
  rw [hc]
  split
  · exact h.emit ..
  · exact h

theorem finishCycle (p w : Word) (i : Instr) : SameButDirtyAndSinks (s.finishCycle p w i) (t.finishCycle p w i) := by
  have hh : t.halt = s.halt := by obtain ⟨d, es, rfl⟩ := h; rfl
  unfold State.finishCycle
  rw [hh]
  split
  · exact h
  · exact h.timerBookkeeping.traceStep p w i

end SameButDirtyAndSinks

/-- Settles O49: none of the things one step can do reads DIRTY or the sinks. -/
theorem dirtyAndSinksAreInvisible : Obligations.DirtyAndSinksAreInvisible := by
  intro s t d es h
  have same : SameButDirtyAndSinks s { s with dirty := d, emitted := es } := ⟨d, es, rfl⟩
  suffices hs : ∃ u, step { s with dirty := d, emitted := es } = .next u ∧ SameButDirtyAndSinks t u by
    obtain ⟨u, hu, d', es', rfl⟩ := hs
    exact ⟨d', es', hu⟩
  obtain ⟨hw, ⟨hh, rfl⟩ | ⟨hh, ⟨hf, rfl⟩ | ⟨w, hf, ⟨hd, rfl⟩ | ⟨i, u, hd, he, rfl⟩⟩⟩⟩ := step_cases h
  · exact ⟨_, step_of_halt hw hh, same⟩
  · exact ⟨_, step_of_no_fetch hw hh hf, d, es, rfl⟩
  · exact ⟨_, step_of_unrecognized hw hh hf hd, (same.emit ..).timerBookkeeping⟩
  · obtain ⟨d', es', he'⟩ := exec_withDirtyAndSinks he d es
    exact ⟨_, step_of_exec hw hh hf hd he', SameButDirtyAndSinks.finishCycle ⟨d', es', rfl⟩ ..⟩

/-! The invariant of a session. -/

namespace State.Inv

variable {s : State} (hs : s.Inv)
include hs

/-- Before a cycle has counted, any legal configuration of the host keeps the invariant (R37). -/
theorem configure {u d : Nat} {tr : Bool} (hw : (s.configure u d tr).config.wf = true) (h0 : s.tdiv = 0) :
    (s.configure u d tr).Inv :=
  ⟨hw, hs.mem, hs.stackLength, hs.spBound, hs.entries, hs.pcBound, by
    rw [show (s.configure u d tr).tdiv = 0 from h0]; exact cadence_pos_of_wf hw, hs.running, hs.halted⟩

/-- An image keeps the canonical form of MEM and writes nothing else. -/
theorem loadImage (bytes : List Byte) : (s.loadImage bytes).Inv := by
  have hm := s.storeBytes_wf progBase bytes hs.mem
  rw [State.loadImage, State.storeBytes_eq]
  exact ⟨hs.config, hm, hs.stackLength, hs.spBound, hs.entries, hs.pcBound, hs.cadence, hs.running, hs.halted⟩

end State.Inv

/-- A move that replaces the CORE keeps the session's invariant if the new CORE has its own and TDIV is as it was. -/
theorem Session.Inv.setState {h : Session} (hi : h.Inv) {t : State} (ht : t.Inv) (hd : t.tdiv = h.state.tdiv) :
    (h.setState t).Inv :=
  ⟨ht, fun hb => hd.trans (hi.beforeTick hb)⟩

/-- Settles O15: a cycle is a step of the CORE, Reset needs a legal configuration only, and Configure comes while TDIV
is 0. -/
theorem hostOperationsKeepTheInvariant : Obligations.HostOperationsKeepTheInvariant := by
  intro op h h' r hi ho
  have ⟨hs, hb⟩ := hi
  cases op with
  | reset => cases ho; exact ⟨State.hostReset_inv hs.config, fun _ => rfl⟩
  | configure u d tr =>
    obtain ⟨before, hw, rfl, -⟩ := Session.configure_eq_next.1 ho
    exact hi.setState (hs.configure hw (hb before)) rfl
  | loadImage bytes =>
    obtain ⟨-, -, rfl, -⟩ := Session.loadImage_eq_next.1 ho
    exact hi.setState (hs.loadImage bytes) (State.storeBytes_tdiv ..)
  | tick =>
    obtain ⟨-, rfl, -⟩ := Session.beginTick_eq_next.1 ho
    exact ⟨hs, by simp⟩
  | cycle =>
    obtain ⟨-, t, e, hc, -, rfl⟩ := Session.cycle_eq_next.1 ho
    exact ⟨stepKeepsTheInvariant _ t hs (stateOf_eq_next.2 ⟨e, hc⟩), by simp⟩
  | setKey | setKeys | readAndClearDirty => cases ho; exact hi.setState (hs.of_eq rfl hs.cadence) rfl
  | readFramebuffer | readStatus => cases ho; exact hi

/-! The moves of the host. -/

/-- Of the host's moves only Reset, LoadImage and a cycle write MEM, and only Reset reopens LoadImage (R254, R277). -/
theorem hostStep_keepsMem {op : HostOp} {h h' : Session} {r : Reply} (hb : h.beforeCycle = false) (hr : op ≠ .reset)
    (hc : op ≠ .cycle) (ho : hostStep op h = .next (h', r)) :
    KeepsMem h.state h'.state ∧ h'.beforeCycle = false := by
  cases op with
  | reset => exact absurd rfl hr
  | cycle => exact absurd rfl hc
  | configure u d tr =>
    obtain ⟨-, -, rfl, -⟩ := Session.configure_eq_next.1 ho
    exact ⟨fun _ => rfl, hb⟩
  | loadImage bytes =>
    obtain ⟨before, -⟩ := Session.loadImage_eq_next.1 ho
    simp [hb] at before
  | tick =>
    obtain ⟨-, rfl, -⟩ := Session.beginTick_eq_next.1 ho
    exact ⟨fun _ => rfl, hb⟩
  | setKey | setKeys | readFramebuffer | readAndClearDirty | readStatus => cases ho; exact ⟨fun _ => rfl, hb⟩

/-- Of the instructions only LD B and LD [I] write MEM (R277). -/
theorem exec_keepsMem {i : Instr} {s t : State} (hi : ∀ x, i ≠ .ldBVx x ∧ i ≠ .ldMemVx x) (h : exec i s = .next t) :
    KeepsMem s t := by
  intro a
  rw [State.readByte, State.readByte, (exec_writesOnlyItsOwn h).mem hi, (exec_handlerKeeps h).config]

/-- Settles O51: an image of legal length is stored in MEM from 0x200 on and nothing else changes. -/
theorem loadImagePlacesTheProgram : Obligations.LoadImagePlacesTheProgram := by
  refine ⟨fun h bytes hb hlen => ?_, fun h bytes hb hlen => ?_, fun h bytes hb => ?_,
    fun op h h' r hb hr hc ho => hostStep_keepsMem hb hr hc ho, fun i s t hi he => exec_keepsMem hi he⟩
  · have hfit : progBase + bytes.length ≤ memSize := by rw [progBase, memSize]; omega
    have hwf : imageWf bytes = true := decide_eq_true hlen
    refine ⟨_, Session.loadImage_eq_next.2 ⟨hb, hwf, rfl, rfl⟩, fun k hk => ?_,
      fun a ha => State.readByte_storeBytes_outside _ _ _ _ ha, congrArg h.setState (State.storeBytes_eq ..)⟩
    have hin : progBase ≤ progBase + k ∧ progBase + k < progBase + bytes.length := by omega
    calc (h.state.storeBytes progBase bytes).readByte (progBase + k)
      _ = bytes[progBase + k - progBase]'(by omega) := by rw [State.readByte_storeBytes _ _ _ hfit, dif_pos hin]
      _ = bytes[k] := by simp
  · have hwf : imageWf bytes = false := decide_eq_false (Nat.not_le.2 hlen)
    simp [hostStep, Session.loadImage, hb, hwf]
  · simp [hostStep, Session.loadImage, hb]

/-- KEY after SetKey, level by level (R251). -/
theorem State.keyDown_setKey (s : State) (k : BitVec 4) (down : Bool) {j : Nat} (hj : j < 16) :
    (s.setKey k down).keyDown j = if j = k.toNat then down else s.keyDown j := by
  have hk : k.toNat < 16 := k.isLt
  have hbit : (1#16 <<< k.toNat).getLsbD j = decide (j = k.toNat) :=
    (BitVec.getLsbD_twoPow k.toNat j).trans (by simp [hk, eq_comm])
  unfold State.keyDown State.setKey
  cases down with
  | true =>
    rw [if_pos rfl, BitVec.getLsbD_or, hbit]
    by_cases h : j = k.toNat <;> simp [h]
  | false =>
    rw [if_neg Bool.false_ne_true, BitVec.getLsbD_and, BitVec.getLsbD_not, hbit]
    by_cases h : j = k.toNat <;> simp [h, hj]

/-- Settles O54: SetKey is one level of KEY, and no cycle writes KEY. -/
theorem keysAreWrittenByTheHostOnly : Obligations.KeysAreWrittenByTheHostOnly := by
  refine ⟨fun h k down => ?_, fun h keys => rfl, fun s t h => (step_keepsInputs h).1⟩
  exact ⟨_, rfl, fun j hj => h.state.keyDown_setKey k down hj, rfl⟩

/-- No instruction reads the three configuration registers (R37). -/
theorem exec_configure {i : Instr} {s t : State} (h : exec i s = .next t) (u d : Nat) (tr : Bool) :
    exec i (s.configure u d tr) = .next (t.configure u d tr) := by
  by_cases hi : ∀ x nn, i ≠ .rnd x nn
  · have hdraws : t.draws = s.draws := (exec_writesOnlyItsOwn h).draws hi
    refine (exec_withDrawsAndConfig hi h s.draws u d tr).trans ?_
    rw [← hdraws]
    rfl
  · push Not at hi
    obtain ⟨x, nn, rfl⟩ := hi
    cases h
    rfl

/-- A cadence of 0 is no legal configuration (R37). -/
theorem wf_of_cadence_zero {c : Config} (h : c.cyclesPerTimerDecrement = 0) : c.wf = false := by
  simp [Config.wf, h]

/-- Settles O55: Configure is the host's only write of the three registers, no cycle and no instruction reads or writes
them but to refuse a cadence of 0. -/
theorem configurationIsHeld : Obligations.ConfigurationIsHeld := by
  refine ⟨fun h u d tr hb hd hw => ?_, fun h u tr hb => ?_, fun h u d tr hb => ?_, fun s h0 => ?_,
    fun s t h => (step_keepsInputs h).2, fun i s t u d tr h => exec_configure h u d tr, State.hostReset_config,
    rfl, rfl, rfl⟩
  · have hw' : (h.state.configure u d tr).config.wf = true := by
      simp only [Config.wf, Bool.and_eq_true, decide_eq_true_eq] at hw
      simp [Config.wf, State.configure, hw, hd]
    exact Session.configure_eq_next.2 ⟨hb, hw', rfl, rfl⟩
  · have hw : (h.state.configure u 0 tr).config.wf = false := wf_of_cadence_zero rfl
    simp [hostStep, Session.configure, hb, hw]
  · simp [hostStep, Session.configure, hb]
  · simp [step, cycle, stateOf, wf_of_cadence_zero h0]

/-- The i-th cell the host reads is column i mod 64 of row i div 64 (R248). -/
theorem State.getElem_readFramebuffer (s : State) {i : Nat} (hi : i < s.readFramebuffer.length) (hr : i / 64 < 32) :
    s.readFramebuffer[i] = s.fb[i / 64].getLsbD (i % 64) := by
  simp [State.readFramebuffer, State.pixel, Framebuffer.cell, hr]

/-- Settles O56: both reads answer the session itself. -/
theorem hostReadsChangeNothing : Obligations.HostReadsChangeNothing := by
  intro h
  exact ⟨⟨_, rfl, by simp [State.readFramebuffer], fun i hi hr => h.state.getElem_readFramebuffer hi hr⟩, rfl⟩

/-- Settles O57: each move that answers always is one equation of `hostStep`; Tick and the cycle are legal by the count of
cycles due. -/
theorem hostActsBetweenTheCyclesOfATick : Obligations.HostActsBetweenTheCyclesOfATick := by
  refine ⟨fun h op hop => ?_, fun h => ⟨h.reset, rfl, rfl, rfl, rfl⟩, fun h h0 => ?_, fun h hne => ?_⟩
  · obtain rfl | rfl | rfl | rfl | ⟨k, down, rfl⟩ | ⟨keys, rfl⟩ := hop <;> exact ⟨_, _, rfl, rfl⟩
  · exact ⟨if_pos h0, Session.beginTick_eq_next.2 ⟨h0, rfl, rfl⟩⟩
  · refine ⟨if_neg hne, fun t e hc => ⟨_, Session.cycle_eq_next.2 ⟨hne, t, e, hc, rfl, rfl⟩, rfl, ?_, rfl, rfl⟩⟩
    exact Nat.succ_pred hne

end Sys2Proof.Machine
end
